-- ==== Sys2Proof/Word.lean ====
section
/-! DEFINITION. The unit types of PIOC: the byte of the bus, the 16-bit word, and fixed-length byte arrays
(spec/00_scope.md rules R8, R9). -/

namespace Sys2Proof

/-- `BYTE_W` = 8: the unit of accumulation and of bus transfer (R8). -/
abbrev Byte := BitVec 8

/-- `ACC_W` = `ADDR_W` = `PIDX_W` = 16 (R8). -/
abbrev Word := BitVec 16

/-- A byte array of fixed length, indexed from 0 in transmission order (R32). -/
abbrev Bytes (n : Nat) := Vector Byte n

end Sys2Proof
end

