-- ==== Sys2Proof/Machine/Wire.lean ====
section
/-! DEFINITION. The constants of the wire format, the byte-order helpers and the page address (R8, R9, R41, R43,
R88). None of the constants is configurable (R102). -/

namespace Sys2Proof.Machine

/-- `RESIDUE`: the accumulator value that means error-free (R8, R96). -/
def residue : Word := 0xB001
/-- `POLY_TERM` (R8, R90). -/
def polyTerm : Word := 0xC001
/-- `CMD_MATCH` (R75). -/
def cmdMatch : Byte := 0x55
/-- `CMD_READ` (R76). -/
def cmdRead : Byte := 0xA5
/-- `CMD_WSP` (R78). -/
def cmdWsp : Byte := 0x0F
/-- `CMD_COPY` (R79). -/
def cmdCopy : Byte := 0x55
/-- `AUTH_BYTE` (R80). -/
def authByte : Byte := 0x1F
/-- `FILL`: filler and placeholder (R81). -/
def fill : Byte := 0xFF

/-- `CONF_OK` = 0x55 or 0xAA, compared on the whole byte (R82). -/
def confOk (b : Byte) : Bool := b == 0x55 || b == 0xAA

/-- `lo8(v) = v[7:0]` (R9). -/
def lo8 (v : Word) : Byte := v.extractLsb' 0 8
/-- `hi8(v) = v[15:8]` (R9). -/
def hi8 (v : Word) : Byte := v.extractLsb' 8 8
/-- The 16-bit value of two bytes sent low byte first (R43). -/
def ofLoHi (lo hi : Byte) : Word := (hi ++ lo : BitVec 16)

/-- `page_addr(i) = trunc_16(i << 5)` (R41). -/
def pageAddr (i : Word) : Word := i <<< 5

/-- `rep(34, 0xFF)`: where the device answers a read (R76, R77, R81). -/
def readFiller : List Byte := List.replicate 34 fill

/-- A fixed-length array from a list; a list that is too short is filled up with 0, one that is too long is cut
(no rule meets either case: every use passes at least `n` bytes, Laws/Wire.lean). -/
def toBytes (n : Nat) (l : List Byte) : Bytes n :=
  ⟨((l ++ List.replicate n 0).take n).toArray, by simp⟩

end Sys2Proof.Machine
end

