-- ==== Sys2Proof/Syntax.lean ====
section
/-! DEFINITION. The instructions: one constructor per row of spec/opcode_table.json. Nine host operations, whose
operands stand in latches (R71, R72), and six bus frames, which carry their operands on the wire (R74 to R80). -/

namespace Sys2Proof

/-- How a string of bytes is to be read (R70, R85): a host command byte, or a bus frame told by its position in
the protocol. -/
inductive Format where
  /-- host command byte (R71) -/
  | host
  /-- `WSEL`: first frame after a bus reset (R85) -/
  | wsel
  /-- `WMEM`: first frame after a completed `WSEL` (R85) -/
  | wmem
  /-- `WCONT`: filler-only frame following a read (R85) -/
  | wcont
  /-- `WAUTH`: the single byte after `W.COPY` under strong power (R85) -/
  | wauth
  deriving DecidableEq, Repr

/-- The instructions of PIOC (R3, R72, R75 to R80). -/
inductive Instr where
  /-- `CRC.RESET` (R94) -/
  | crcReset
  /-- `CRC.ACC`, operand `ARG_BYTE` (R95) -/
  | crcAcc
  /-- `CRC.CHECK` (R96) -/
  | crcCheck
  /-- `SELECT`, reads `ID` (R105) -/
  | select
  /-- `READ_PAGE`, operand `ARG_PIDX` (R110) -/
  | readPage
  /-- `READ_PAGE.C`, no operand (R111, R114) -/
  | readPageC
  /-- `WRITE_SCRATCHPAD`, operands `ARG_ADDR`, `WDATA` (R120) -/
  | writeScratchpad
  /-- `COPY_SCRATCHPAD`, operand `ARG_ADDR` (R122) -/
  | copyScratchpad
  /-- `WRITE_PAGE`, operands `ARG_PIDX`, `WDATA` (R124) -/
  | writePage
  /-- `W.MATCH`: 0x55 and the identifier (R75) -/
  | wMatch (ident : Bytes 8)
  /-- `W.READ`: 0xA5, the address, 34 bytes of filler (R76) -/
  | wRead (addr : Word)
  /-- `W.READC`: 34 bytes of filler (R77) -/
  | wReadc
  /-- `W.WSP`: 0x0F, the address, the payload, 2 placeholders (R78) -/
  | wWsp (addr : Word) (data : Bytes 32)
  /-- `W.COPY`: 0x55 and the address (R79) -/
  | wCopy (addr : Word)
  /-- `W.AUTH`: 0x1F (R80) -/
  | wAuth
  deriving DecidableEq, Repr

/-- The format of each row of spec/opcode_table.json (R85). -/
def Instr.format : Instr → Format
  | .crcReset | .crcAcc | .crcCheck | .select | .readPage | .readPageC
  | .writeScratchpad | .copyScratchpad | .writePage => .host
  | .wMatch _ => .wsel
  | .wRead _ | .wWsp _ _ | .wCopy _ => .wmem
  | .wReadc => .wcont
  | .wAuth => .wauth

end Sys2Proof
end

