-- ==== Sys2Proof/Decode.lean ====
section
/-! DEFINITION. Decoding, total on any bytes and rejecting by name, and after it the encoder, each written from the
encoding tables of spec/30_encoding.md (R71, R72, R75 to R80, R84, R85). -/

namespace Sys2Proof

open Sys2Proof.Machine

/-- Why a string of bytes is no instruction. -/
inductive DecodeError where
  /-- `RSV != 000` (R84) -/
  | reservedRsv
  /-- `CONT = 1` with `OPC != 0x4` (R71, R84) -/
  | reservedCont
  /-- `OPC` in 0x8 to 0xF (R84) -/
  | reservedOpc
  /-- not as long as the format's frames are (R86) -/
  | wrongLength
  /-- a first byte that is no command of the format (R74, R85) -/
  | wrongCommand
  /-- a filler or placeholder position that is not 0xFF (R81) -/
  | wrongFiller
  /-- a read address whose low five bits are not 0 (R41, R76) -/
  | misalignedRead
  deriving DecidableEq, Repr

/-- Format H: `RSV` in bits 7:5, `CONT` in bit 4, `OPC` in bits 3:0 (R71, R72, R84). -/
def decodeHost (b : Byte) : Except DecodeError Instr :=
  if b.extractLsb' 5 3 ≠ 0 then .error .reservedRsv
  else if b.getLsbD 4 then
    if b.extractLsb' 0 4 = 4 then .ok .readPageC else .error .reservedCont
  else
    match (b.extractLsb' 0 4).toNat with
    | 0 => .ok .crcReset
    | 1 => .ok .crcAcc
    | 2 => .ok .crcCheck
    | 3 => .ok .select
    | 4 => .ok .readPage
    | 5 => .ok .writeScratchpad
    | 6 => .ok .copyScratchpad
    | 7 => .ok .writePage
    | _ => .error .reservedOpc

/-- `WSEL`: 0x55 and the eight identifier bytes in storage order (R75). -/
def decodeSelFrame : List Byte → Except DecodeError Instr
  | [c, i0, i1, i2, i3, i4, i5, i6, i7] =>
    if c = cmdMatch then .ok (.wMatch ⟨#[i0, i1, i2, i3, i4, i5, i6, i7], rfl⟩)
    else .error .wrongCommand
  | _ => .error .wrongLength

/-- `WMEM`: 0xA5, 0x0F or 0x55 and the address, low byte first (R43, R76, R78, R79). -/
def decodeMemFrame : List Byte → Except DecodeError Instr
  | c :: al :: ah :: rest =>
    if c = cmdRead then
      if rest.length ≠ 34 then .error .wrongLength
      else if rest ≠ readFiller then .error .wrongFiller
      else if (ofLoHi al ah).extractLsb' 0 5 ≠ 0 then .error .misalignedRead
      else .ok (.wRead (ofLoHi al ah))
    else if c = cmdWsp then
      if rest.length ≠ 34 then .error .wrongLength
      else if rest.drop 32 ≠ [fill, fill] then .error .wrongFiller
      else .ok (.wWsp (ofLoHi al ah) (toBytes 32 rest))
    else if c = cmdCopy then
      if rest = [] then .ok (.wCopy (ofLoHi al ah)) else .error .wrongLength
    else .error .wrongCommand
  | _ => .error .wrongLength

/-- `WCONT`: nothing but filler (R77). -/
def decodeContFrame (l : List Byte) : Except DecodeError Instr :=
  if l.length ≠ 34 then .error .wrongLength
  else if l = readFiller then .ok .wReadc
  else .error .wrongFiller

/-- `WAUTH`: the one byte 0x1F (R80). -/
def decodeAuthFrame : List Byte → Except DecodeError Instr
  | [c] => if c = authByte then .ok .wAuth else .error .wrongCommand
  | _ => .error .wrongLength

/-- The instruction that a string of bytes is in a format. The format is not in the bytes: 0x55 is `W.MATCH` or
`W.COPY` by its position alone (R85). -/
def decode : Format → List Byte → Except DecodeError Instr
  | .host, [b] => decodeHost b
  | .host, _ => .error .wrongLength
  | .wsel, l => decodeSelFrame l
  | .wmem, l => decodeMemFrame l
  | .wcont, l => decodeContFrame l
  | .wauth, l => decodeAuthFrame l

/-- The bytes of an instruction, byte 0 first (R72, R75 to R80). -/
def encode : Instr → List Byte
  | .crcReset => [0x00]
  | .crcAcc => [0x01]
  | .crcCheck => [0x02]
  | .select => [0x03]
  | .readPage => [0x04]
  | .readPageC => [0x14]
  | .writeScratchpad => [0x05]
  | .copyScratchpad => [0x06]
  | .writePage => [0x07]
  | .wMatch ident => cmdMatch :: ident.toList
  | .wRead addr => cmdRead :: lo8 addr :: hi8 addr :: readFiller
  | .wReadc => readFiller
  | .wWsp addr data => cmdWsp :: lo8 addr :: hi8 addr :: (data.toList ++ [fill, fill])
  | .wCopy addr => [cmdCopy, lo8 addr, hi8 addr]
  | .wAuth => [authByte]

/-! ### The table's numbering of an instruction's bits -/

/-- Byte `k` of the word `w`: bit 0 of `w` is the least significant bit of the first byte. -/
def tableByte (w k : Nat) : Byte := BitVec.ofNat 8 (w >>> (8 * k))

/-- `len` bytes of a frame: those the table gives bits come from `w`, a filler position that the table gives no
bits is 0xFF (R81: it is no operand), every other byte is 0. `filler k` says whether position `k` is filler. -/
def tableBytes (nbits w : Nat) (filler : Nat → Bool) (len : Nat) : List Byte :=
  (List.range len).map fun k =>
    if 8 * k < nbits then tableByte w k else if filler k then fill else 0

/-- The format, length and filler positions under which a table word is read. A legal host command byte is read as
one. Of the other first bytes the table has 0x55 in two rows (R85): with 24 bits it is read as `W.COPY`, else as
`W.MATCH`, the first frame after a bus reset (log entry 10). -/
def tableLayout (nbits w : Nat) : Format × List Byte :=
  let first := tableByte w 0
  if (decodeHost first).toOption.isSome then (.host, [first])
  else if first = cmdMatch then
    if nbits = 24 then (.wmem, tableBytes nbits w (fun _ => false) 3)
    else (.wsel, tableBytes nbits w (fun _ => false) 9)
  else if first = cmdRead then (.wmem, tableBytes nbits w (fun k => 3 ≤ k) 37)
  else if first = cmdWsp then (.wmem, tableBytes nbits w (fun k => 35 ≤ k) 37)
  else if first = fill then (.wcont, tableBytes nbits w (fun _ => true) 34)
  else if first = authByte then (.wauth, [first])
  else (.host, [first])

/-- The instruction the decoder reads from a word numbered as spec/opcode_table.json numbers it. -/
def decodeTableWord (nbits w : Nat) : Option Instr :=
  (decode (tableLayout nbits w).1 (tableLayout nbits w).2).toOption

end Sys2Proof
end

