-- ==== Sys2Proof/Machine/Crc.lean ====
section
/-! DEFINITION. The arithmetic of the CRC16 Engine (R90 to R93, R97, R98). -/

namespace Sys2Proof.Machine

/-- The table `ODDPAR[0..15]` (R91). -/
def oddParTable : List Bool :=
  [false, true, true, false, true, false, false, true, true, false, false, true, false, true, true, false]

/-- `ODDPAR[n]` (R91). -/
def oddPar (n : BitVec 4) : Bool := oddParTable.getD n.toNat false

/-- The parity condition of R90: `ODDPAR[c[3:0]] ^ ODDPAR[c[7:4]]`. -/
def parityOdd (c : Byte) : Bool := oddPar (c.extractLsb' 0 4) ^^ oddPar (c.extractLsb' 4 4)

/-- `crc16_update(acc, b)` (R90; 90_conflicts.md C1, reading A). -/
def crc16Update (acc : Word) (b : Byte) : Word :=
  let c := b ^^^ lo8 acc
  let t := acc >>> 8
  let t := if parityOdd c then t ^^^ polyTerm else t
  let t := t ^^^ (c.setWidth 16 <<< 6)
  t ^^^ (c.setWidth 16 <<< 7)

/-- `crc16_fold(acc, L)` (R97). -/
def crc16Fold (acc : Word) : List Byte → Word
  | [] => acc
  | b :: l => crc16Fold (crc16Update acc b) l

/-- One of the eight steps of the bit-serial CRC-16 (R98). -/
def crcSerialBit (t : Word) : Word := if t.getLsbD 0 then (t >>> 1) ^^^ 0xA001 else t >>> 1

/-- The bit-serial CRC-16 that R98 compares `crc16_update` with. -/
def crcSerial (acc : Word) (b : Byte) : Word :=
  (crcSerialBit ∘ crcSerialBit ∘ crcSerialBit ∘ crcSerialBit ∘ crcSerialBit ∘ crcSerialBit ∘ crcSerialBit ∘ crcSerialBit)
    (acc ^^^ b.setWidth 16)

/-- The two CRC bytes a correct device returns after the accumulator value `a`: its complement, low byte first (R44,
R65). -/
def crcReply (a : Word) : List Byte := [lo8 (a ^^^ 0xFFFF), hi8 (a ^^^ 0xFFFF)]

end Sys2Proof.Machine
end

