-- ==== Sys2Proof/Config.lean ====
section
/-! DEFINITION. What the spec leaves open, as constants without a body: no proof can see a value of one.
The wire constants are no configuration (R102) and stand in Machine/Wire.lean. -/

namespace Sys2Proof

/-- `T_SETTLE`, the settling delay of the copy phase: an open parameter, no rule depends on its value
(R8, R53, R169; 92_eei_decisions.md D7; log entry 3). -/
opaque Config.tSettle : Nat

/-! The registers that R33 leaves unspecified after hardware reset hold one of these values: any value of the
register's width, "never 0" as a known value (R33, 93_implementation_defined.md U7, U8; log entry 1). -/

/-- `ACC` after power-on (R33, U7). -/
opaque Config.powerOnAcc : Word
/-- `ID[i]` until the identifier provider has written it (R33, U8). -/
opaque Config.powerOnId : Nat → Byte
/-- `TB[i]` after power-on (R33). -/
opaque Config.powerOnTb : Nat → Byte
/-- `WDATA[i]` after power-on (R33). -/
opaque Config.powerOnWdata : Nat → Byte
/-- `RDATA[i]` after power-on (R33). -/
opaque Config.powerOnRdata : Nat → Byte
/-- The 2-bit code in `STATUS` after power-on (R33). -/
opaque Config.powerOnStatus : BitVec 2
/-- `CONF` after power-on (R33). -/
opaque Config.powerOnConf : Byte
/-- `PRESENT` after power-on (R33). -/
opaque Config.powerOnPresent : Bool
/-- `OPC` after power-on (R33). -/
opaque Config.powerOnOpc : BitVec 4
/-- `ARG_CONT` after power-on (R33). -/
opaque Config.powerOnArgCont : Bool
/-- `ARG_PIDX` after power-on (R33). -/
opaque Config.powerOnArgPidx : Word
/-- `ARG_ADDR` after power-on (R33). -/
opaque Config.powerOnArgAddr : Word
/-- `ARG_BYTE` after power-on (R33). -/
opaque Config.powerOnArgByte : Byte

/-! The oracle (R55): answers that no script in the state fixes. Each draw uses a fresh number. -/

/-- The answer of a `BusReset()` that the state does not fix (R49, R55; log entry 2). -/
opaque Config.freePresence : Nat → Bool
/-- A byte received by `Xchg` or `ReadByte` that the state does not fix (R50, R51, R55; log entry 2). -/
opaque Config.freeByte : Nat → Byte
/-- Which toggle byte the reference environment returns, where the state does not fix it (R68, U14; log entry 2). -/
opaque Config.freePick : Nat → Bool

end Sys2Proof
end

