-- ==== Sys2Proof/Machine/Memory.lean ====
section
/-! DEFINITION. The device's byte array (R40, R63) as a sparse list of cells in one canonical form: addresses
strictly rising, and no cell that holds what an unlisted address reads as. -/

namespace Sys2Proof.Machine

/-- The byte array of the reference device, `MEM` (R63). -/
abbrev Memory := List Host.Cell

/-- What an unlisted address reads as: an erased byte (95_test_vectors.md V35; DESIGN CHOICE, unsafe, log entry 4). -/
def Memory.unlisted : Byte := 0xFF

/-- One byte. -/
def Memory.read : Memory → Nat → Byte
  | [], _ => Memory.unlisted
  | (k, v) :: m, a => if k = a then v else Memory.read m a

/-- Store one byte, keeping the canonical form. -/
def Memory.write : Memory → Nat → Byte → Memory
  | [], a, b => if b = Memory.unlisted then [] else [(a, b)]
  | (k, v) :: m, a, b =>
    if a < k then (if b = Memory.unlisted then (k, v) :: m else (a, b) :: (k, v) :: m)
    else if a = k then (if b = Memory.unlisted then m else (a, b) :: m)
    else (k, v) :: Memory.write m a b

/-- Every cell's address is at least `lo`, addresses rise strictly, and no cell holds the unlisted byte. -/
def Memory.wfFrom : Nat → Memory → Bool
  | _, [] => true
  | lo, (k, v) :: m => decide (lo ≤ k) && v != Memory.unlisted && Memory.wfFrom (k + 1) m

/-- The canonical form. -/
def Memory.wf (m : Memory) : Bool := Memory.wfFrom 0 m

/-- The `n` bytes from address `a` on, lowest address first. -/
def Memory.readBlock (m : Memory) (a : Nat) : Nat → List Byte
  | 0 => []
  | n + 1 => m.read a :: Memory.readBlock m (a + 1) n

/-- Store a list of bytes from address `a` on, lowest address first. -/
def Memory.writeBlock (m : Memory) (a : Nat) : List Byte → Memory
  | [] => m
  | b :: l => Memory.writeBlock (m.write a b) (a + 1) l

end Sys2Proof.Machine
end

