-- ==== Sys2Proof/Machine/State.lean ====
section
/-! DEFINITION. The state of PIOC and of what it is connected to, as plain data: the registers of R20, the bus power
level (R31), the event trace and the oracle (R55), the reference environment (R63), and what the host does next
(R7, R172). -/

namespace Sys2Proof.Machine

/-- `SEQ`, the control position (R24). -/
inductive Seq where
  | idle
  | selReset | selMatch
  | rdHdr | rdXchg | rdFold | rdCheck
  | wsBuild | wsXchg | wsFold | wsCheck
  | cpCmd | cpPwrOn | cpAuth | cpWait | cpPwrOff | cpConf | cpCheck
  deriving DecidableEq, Repr

/-- `WSTATE`, the write state machine (R25, R125). -/
inductive WState where
  | idle | scratchpadStaged | committed | aborted | unknown
  deriving DecidableEq, Repr

/-- What `STATUS` holds (R27, R135). -/
inductive Status where
  | ok | deviceAbsent | integrityMismatch | commitAmbiguous
  deriving DecidableEq, Repr

/-- The 2-bit code of a `STATUS` (R27, R135). -/
def Status.code : Status → BitVec 2
  | .ok => 0
  | .deviceAbsent => 1
  | .integrityMismatch => 2
  | .commitAmbiguous => 3

/-- The `STATUS` of a 2-bit code; all four codes are named (R27). -/
def Status.ofCode (c : BitVec 2) : Status :=
  if c = 0 then .ok else if c = 1 then .deviceAbsent else if c = 2 then .integrityMismatch else .commitAmbiguous

/-- The bus power level (R31 (a), R52). -/
inductive PowerLevel where
  | standard | strong
  deriving DecidableEq, Repr

/-- One transport call with its arguments and its answer (R55). -/
inductive Event where
  /-- `RST(p)` -/
  | rst (p : Bool)
  /-- `XCH(tx, rx)` -/
  | xch (tx rx : List Byte)
  /-- `RDB(b)` -/
  | rdb (b : Byte)
  /-- `PWR(level)` -/
  | pwr (level : PowerLevel)
  /-- `SLP(d)` -/
  | slp (d : Nat)
  deriving DecidableEq, Repr

/-- What an operation returns to the host (R27: a model returns these as the value of the operation; R95, R96, R112). -/
inductive HostResult where
  /-- no result (`CRC.RESET`, and before the first operation) -/
  | nothing
  /-- the updated accumulator (`CRC.ACC`) -/
  | acc (a : Word)
  /-- `VALID` (`CRC.CHECK`) -/
  | valid (v : Bool)
  /-- success without data -/
  | success
  /-- success with the 32 bytes of a page -/
  | data (d : Bytes 32)
  /-- failure, with its code and no data (R112) -/
  | failure (c : Status)
  deriving DecidableEq, Repr

/-- The oracle's answers (R55): those already fixed, next first, one list for each kind of answer, and the number of
free draws made. An answer whose list is empty is a free draw (Config.freePresence, freeByte, freePick). -/
structure Oracle where
  /-- answers of `BusReset()` -/
  presence : List Bool
  /-- bytes received by `Xchg`; with a reference environment, where it has no answer -/
  rx : List Byte
  /-- answers of `ReadByte()` -/
  confirm : List Byte
  /-- the reference environment's choice of toggle byte: `true` is 0xAA, `false` 0x55 (R68) -/
  picks : List Bool
  /-- free draws made so far -/
  draws : Nat
  deriving DecidableEq, Repr

/-- `PHASE` of the reference environment (R63). -/
inductive Phase where
  | unselected | rom | selected
  /-- `Reading(a)`: the next continued read delivers the page at byte address `a` -/
  | reading (a : Nat)
  /-- the model's own: after an exchange to which R64 to R68 give no answer (U5, log entry 7) -/
  | stray
  deriving DecidableEq, Repr

/-- The device's scratchpad while it is valid: `SP_ADDR` and `SP` (R62, R63). -/
structure Scratchpad where
  addr : Word
  data : Bytes 32
  deriving DecidableEq, Repr

/-- The reference environment `ENV` (R63 to R68), no part of PIOC; its `LEVEL` is the state's `busPower`. -/
structure Env where
  /-- `false`: the absent device of R64 -/
  present : Bool
  /-- `N_PAGES` (R8, D6) -/
  nPages : Nat
  /-- `DEV_ID` -/
  devId : Bytes 8
  /-- `MEM` -/
  mem : Memory
  /-- `SP`, `SP_ADDR` with `SP_VALID = 1`; `none` is `SP_VALID = 0` -/
  scratch : Option Scratchpad
  /-- `PHASE` -/
  phase : Phase
  /-- the address of the copy frame that the directly preceding `Xchg` was (R68) -/
  copyAddr : Option Word
  /-- `ARMED`: `some A` is `ARMED = 1` with the address `A` that R68 remembers, `none` is `ARMED = 0` (log entry 29) -/
  armed : Option Word
  /-- "mark the copy Done" (R68) -/
  copyDone : Bool
  /-- `ENV` was asked for something outside its definition (R65 to R67: refuse) -/
  outside : Bool
  deriving DecidableEq, Repr

/-- `ENV` as R63 says it is initially, with `N_PAGES`, `DEV_ID` and `MEM` given. -/
def Env.initial (nPages : Nat) (devId : Bytes 8) (mem : Memory) : Env :=
  { present := true, nPages := nPages, devId := devId, mem := mem, scratch := none, phase := .unselected,
    copyAddr := none, armed := none, copyDone := false, outside := false }

/-- What the outside may do to PIOC between two operations (R7, R155, R172): the identifier provider writes `ID`, the
host writes an operand latch or presents a command byte, the platform resets PIOC. That a reset comes only to an idle
PIOC is the model's choice (log entries 19 and 28). -/
inductive HostMove where
  | provideId (ident : Bytes 8)
  | writeArgByte (b : Byte)
  | writeArgPidx (i : Word)
  | writeArgAddr (a : Word)
  | writeWdata (d : Bytes 32)
  | command (b : Byte)
  | hardReset
  deriving DecidableEq, Repr

/-- The whole state. INVENTORY.md lists each field with its rule. -/
structure State where
  /-- `ACC` (R21) -/
  acc : Word
  /-- `ID[0..7]` (R22) -/
  id : Bytes 8
  /-- `TB[0..36]` (R23) -/
  tb : Bytes 37
  /-- `TBLEN` (R23) -/
  tbLen : BitVec 6
  /-- `SEQ` (R24) -/
  seq : Seq
  /-- `WSTATE` (R25) -/
  wstate : WState
  /-- `OPC` (R26) -/
  opc : BitVec 4
  /-- `ARG_CONT` (R26) -/
  argCont : Bool
  /-- `ARG_PIDX` (R26) -/
  argPidx : Word
  /-- `ARG_ADDR` (R26) -/
  argAddr : Word
  /-- `ARG_BYTE` (R26) -/
  argByte : Byte
  /-- `WDATA[0..31]` (R26) -/
  wdata : Bytes 32
  /-- `STATUS` (R27) -/
  status : Status
  /-- `RDATA[0..31]` (R27) -/
  rdata : Bytes 32
  /-- `RVALID` (R27) -/
  rvalid : Bool
  /-- `CONF` (R27) -/
  conf : Byte
  /-- `PRESENT` (R28) -/
  present : Bool
  /-- `BUSY` (R29) -/
  busy : Bool
  /-- the bus power level, outside PIOC (R31 (a)); `LEVEL` of `ENV` (R63) -/
  busPower : PowerLevel
  /-- the event trace, oldest first (R55, R57 (4)) -/
  trace : List Event
  /-- the oracle (R55) -/
  oracle : Oracle
  /-- `none`: the oracle answers the transport calls; `some e`: the reference environment does (R63) -/
  env : Option Env
  /-- the number of the transport call that never returns, counted from 0 over the whole history of the bus (R57 (4)), or
  `none`: every call returns (R157 (2), R166, U12; log entry 13) -/
  hangAt : Option Nat
  /-- what the last operation returned (R27) -/
  result : HostResult
  /-- what the host, the identifier provider and the platform do next, first move first (R155, R172) -/
  inbox : List HostMove
  deriving DecidableEq, Repr

/-- Every transport call returns: the premise of R157 (2) and R166. -/
def State.bounded (s : State) : Bool := s.hangAt.isNone

/-- `len` bytes of a register left unspecified by R33. -/
def powerOnBytes (len : Nat) (byte : Nat → Byte) : Bytes len := toBytes len ((List.range len).map byte)

/-- The machine right after hardware reset (R33, R155): `SEQ = S_IDLE`, `BUSY = 0`, `WSTATE = Idle`, `RVALID = 0`,
`TBLEN = 0`, every other register unspecified (Config.powerOn…). The launch premises of R157 hold: the bus power
level is `standard`, the transport is bounded (DESIGN CHOICE, log entry 8). Nothing has been done yet, and the oracle
answers freely. A later reset of an idle PIOC is the move `HostMove.hardReset` (log entry 28). -/
def State.reset : State where
  acc := Config.powerOnAcc
  id := powerOnBytes 8 Config.powerOnId
  tb := powerOnBytes 37 Config.powerOnTb
  tbLen := 0
  seq := .idle
  wstate := .idle
  opc := Config.powerOnOpc
  argCont := Config.powerOnArgCont
  argPidx := Config.powerOnArgPidx
  argAddr := Config.powerOnArgAddr
  argByte := Config.powerOnArgByte
  wdata := powerOnBytes 32 Config.powerOnWdata
  status := Status.ofCode Config.powerOnStatus
  rdata := powerOnBytes 32 Config.powerOnRdata
  rvalid := false
  conf := Config.powerOnConf
  present := Config.powerOnPresent
  busy := false
  busPower := .standard
  trace := []
  oracle := { presence := [], rx := [], confirm := [], picks := [], draws := 0 }
  env := none
  hangAt := none
  result := .nothing
  inbox := []

/-- What stops the machine. PIOC itself has no fault: its three failures are results of operations (R135, R141). -/
inductive Fault where
  /-- Raised by an operation, a frame or a control position in which the transport call numbered `hangAt` is made: it never
  returns, and PIOC has no further step (R166; 93_implementation_defined.md U12: `stuck`). It carries the state in which
  PIOC hangs for ever: `BUSY` is still 1, `SEQ` is at the call, the calls before it are done. Safe: the machine makes no
  step that the hardware does not make. That the call itself has had no effect in the state carried is the model's choice,
  unsafe for a claim about its `TB`, its bus power level or its device (DESIGN CHOICE, log entry 13). -/
  | transportHung (stuck : State)
  deriving DecidableEq, Repr

/-- What has no meaning. -/
inductive Refusal where
  /-- An instruction without a meaning in this model; raised by no arm of exec. Safe. -/
  | notModelled (mnemonic : String)
  /-- Raised by presenting a reserved command byte (R84, R151, U10). Safe: the operation is not started. -/
  | reservedCommand
  /-- Raised by presenting a command byte while `BUSY = 1` (R29, R151, U9). Safe: the operation is not started. -/
  | busyCommand
  /-- Raised by an operation or frame in which the reference environment got one of the three exchanges that the spec
  says it refuses: a read or a continued read past the last page, a scratchpad write to a misaligned address (R65, R66,
  R67, U2, U3: "refuse"). Safe: nothing can be proved of such a run. Never raised where the oracle answers. -/
  | environmentUndefined
  deriving DecidableEq, Repr

end Sys2Proof.Machine
end

