-- ==== Sys2Proof/Machine/Environment.lean ====
section
/-! DEFINITION. The transport's answers: the oracle (R55), and the reference environment `ENV` (R63 to R68). -/

namespace Sys2Proof.Machine

/-! ### The oracle -/

/-- The next answer of `BusReset()` (R49, R55). -/
def Oracle.takePresence (o : Oracle) : Bool × Oracle :=
  match o.presence with
  | p :: rest => (p, { o with presence := rest })
  | [] => (Config.freePresence o.draws, { o with draws := o.draws + 1 })

/-- The next byte received by `Xchg` (R50, R55). -/
def Oracle.takeByte (o : Oracle) : Byte × Oracle :=
  match o.rx with
  | b :: rest => (b, { o with rx := rest })
  | [] => (Config.freeByte o.draws, { o with draws := o.draws + 1 })

/-- The `n` bytes received by an `Xchg(n)`, in order (R50). -/
def Oracle.takeBytes : Nat → Oracle → List Byte × Oracle
  | 0, o => ([], o)
  | n + 1, o => (o.takeByte.1 :: (Oracle.takeBytes n o.takeByte.2).1, (Oracle.takeBytes n o.takeByte.2).2)

/-- The next answer of `ReadByte()` (R51, R55). -/
def Oracle.takeConfirm (o : Oracle) : Byte × Oracle :=
  match o.confirm with
  | b :: rest => (b, { o with confirm := rest })
  | [] => (Config.freeByte o.draws, { o with draws := o.draws + 1 })

/-- The next choice of toggle byte (R68, U14). -/
def Oracle.takePick (o : Oracle) : Bool × Oracle :=
  match o.picks with
  | p :: rest => (p, { o with picks := rest })
  | [] => (Config.freePick o.draws, { o with draws := o.draws + 1 })

/-! ### The reference environment

R69 says what holds of PIOC against it: its four properties are consequences of the definitions below and of the operations, and
are stated over them (State.deviceReady holds their premises). -/

/-- `ENV`, bus reset (R64). -/
def Env.busReset (e : Env) : Env :=
  { e with phase := if e.present then .rom else .unselected, copyAddr := none, armed := none, copyDone := false }

/-! An `Xchg` gives the bytes received, `none` where they are any value (the oracle's), and the device after it. -/

/-- "Refuse" (R65 to R67): `ENV` leaves its definition. No next state shows the bytes, since the operation is refused. -/
def Env.leave (tx : List Byte) (e : Env) : Option (List Byte) × Env := (some tx, { e with outside := true })

/-- An exchange to which R64 to R68 give no answer: the bytes received are any value
(93_implementation_defined.md U5), and so is every answer until the next bus reset. The rest of the device stays as it is,
since no rule changes it (DESIGN CHOICE, log entry 7). -/
def Env.strayFrame (e : Env) : Option (List Byte) × Env := (none, { e with phase := .stray })

/-- Whether the page-sized block at byte address `a` lies inside the device (R65, R66, R68). -/
def Env.inRange (e : Env) (a : Nat) : Bool := decide (a + 31 < e.nPages * 32)

/-- `ENV`, match (R64). -/
def Env.matchFrame (tx : List Byte) (e : Env) : Option (List Byte) × Env :=
  match decode .wsel tx with
  | .ok (.wMatch ident) => (some tx, { e with phase := if ident = e.devId then .selected else .unselected })
  | _ => e.strayFrame

/-- `ENV`, read (R65). -/
def Env.readFrame (tx : List Byte) (addr : Word) (e : Env) : Option (List Byte) × Env :=
  if e.inRange addr.toNat then
    let page := e.mem.readBlock addr.toNat 32
    (some (tx.take 3 ++ page ++ crcReply (crc16Fold 0 (tx.take 3 ++ page))),
      { e with phase := .reading (addr.toNat + 32) })
  else e.leave tx

/-- `ENV`, continued read (R66). -/
def Env.contFrame (tx : List Byte) (a : Nat) (e : Env) : Option (List Byte) × Env :=
  match decode .wcont tx with
  | .ok .wReadc =>
    if e.inRange a then
      let page := e.mem.readBlock a 32
      (some (page ++ crcReply (crc16Fold 0 page)), { e with phase := .reading (a + 32) })
    else e.leave tx
  | _ => e.strayFrame

/-- `ENV`, write scratchpad (R67). -/
def Env.scratchFrame (tx : List Byte) (addr : Word) (data : Bytes 32) (e : Env) : Option (List Byte) × Env :=
  if addr.extractLsb' 0 5 = 0 then
    (some (tx.take 35 ++ crcReply (crc16Fold 0 (tx.take 35))),
      { e with scratch := some { addr := addr, data := data }, phase := .unselected })
  else e.leave tx

/-- The address for which the authorization byte arms the copy, where the conditions of R68 hold. -/
def Env.authorised (level : PowerLevel) (e : Env) : Option Word :=
  match e.scratch, e.copyAddr with
  | some sp, some a => if level = .strong ∧ a = sp.addr ∧ e.inRange a.toNat = true then some a else none
  | _, _ => none

/-- The frame that a selected device sees (R65, R67, R68): the decoder's, and beside it a read at a misaligned address,
which PIOC never sends (R76) and R65 answers all the same. -/
def deviceFrame (tx : List Byte) : Option Instr :=
  match decode .wmem tx with
  | .ok i => some i
  | .error .misalignedRead => some (.wRead (ofLoHi (tx.getD 1 0) (tx.getD 2 0)))
  | .error _ => none

/-- `ENV`, a frame to the selected device: read, write scratchpad, copy command or authorization byte (R65, R67,
R68). None of them clears the mark `Done` of an earlier committed copy, a second copy frame neither: R68 does not say how
long the mark lasts, and in the model it lasts until the next bus reset (DESIGN CHOICE, log entry 30). -/
def Env.selectedFrame (tx : List Byte) (level : PowerLevel) (e : Env) : Option (List Byte) × Env :=
  match deviceFrame tx with
  | some (.wRead addr) => e.readFrame tx addr
  | some (.wWsp addr data) => e.scratchFrame tx addr data
  | some (.wCopy addr) => (some tx, { e with copyAddr := some addr })
  | _ =>
    if tx = [authByte] then (some tx, { e with armed := (e.authorised level).or e.armed, copyAddr := none })
    else e.strayFrame

/-- `ENV`, one `Xchg` that sends `tx` at a power level: the bytes received and the device after it (R64 to R68). -/
def Env.exchange (tx : List Byte) (level : PowerLevel) (e : Env) : Option (List Byte) × Env :=
  match e.phase with
  | .unselected => (some tx, e)
  | .rom => e.matchFrame tx
  | .selected => e.selectedFrame tx level
  | .reading a => e.contFrame tx a
  | .stray => e.strayFrame

/-- `ENV`, `Sleep(d)` (R68): an armed copy commits if the delay and the power level suffice. It stores the scratchpad at the
address `A` that R68 remembers. A scratchpad staged anew between the authorization byte and the delay leaves the copy
armed and is what is stored, at that same `A` (DESIGN CHOICE, log entry 29). -/
def Env.sleep (d : Nat) (level : PowerLevel) (e : Env) : Env :=
  match e.armed, e.scratch with
  | some a, some sp =>
    if level = .strong ∧ Config.tSettle ≤ d then
      { e with mem := e.mem.writeBlock a.toNat sp.data.toList, scratch := none, armed := none, copyDone := true }
    else e
  | _, _ => e

/-- Whether `ReadByte()` finds a toggle byte: after a copy that is `Done` (R68), unless nobody is selected (R64). The copy is `Done`
from its commit to the next bus reset (DESIGN CHOICE, log entry 30). -/
def Env.toggles (e : Env) : Bool := e.copyDone && e.phase != .unselected

/-- `ENV`, `ReadByte()` (R64, R68): a toggle byte, else 0xFF. -/
def Env.confirmByte (pick : Bool) (e : Env) : Byte :=
  if e.toggles then (if pick then 0xAA else 0x55) else 0xFF

end Sys2Proof.Machine
end

