-- ==== Sys2Proof/Machine/Flags.lean ====
section
/-! DEFINITION. The flags (R28). `PRESENT` and `BUSY` are stored, `BUSY` is written where an operation is accepted and
where it ends; `VALID` is a function of `ACC`. -/

namespace Sys2Proof.Machine

/-- `VALID = 1` iff `ACC == 0xB001`, on all 16 bits (R28, R96). -/
def State.valid (s : State) : Bool := s.acc == residue

/-- `PRESENT <- p` (R28, R105). -/
def setPresent (p : Bool) (s : State) : State := { s with present := p }

end Sys2Proof.Machine
end

