-- ==== Sys2Proof/Machine/Operands.lean ====
section
/-! DEFINITION. The operand latches (R26, R71, R73): how the host writes them, how the command byte is latched, and
which address and which operation the sequencer reads from them. -/

namespace Sys2Proof.Machine

/-- Hardware reset of an idle PIOC (R33, R155): every register as right after the first reset. It makes no transport
call, and what lies outside PIOC, the bus power level with it, is as before. That `ID` is lost too, and must be provided
again, is the model's choice: R155 leaves everything else unspecified, while R22 calls `ID` an input that is set once
from outside (DESIGN CHOICE, log entry 28). -/
def resetRegisters (s : State) : State :=
  { State.reset with
    busPower := s.busPower, trace := s.trace, oracle := s.oracle, env := s.env, hangAt := s.hangAt, inbox := s.inbox }

/-- What a move of the outside other than a command writes (R7 (4), R22, R26, R155, R172). -/
def hostWrite : HostMove → State → State
  | .provideId ident, s => { s with id := ident }
  | .writeArgByte b, s => { s with argByte := b }
  | .writeArgPidx i, s => { s with argPidx := i }
  | .writeArgAddr a, s => { s with argAddr := a }
  | .writeWdata d, s => { s with wdata := d }
  | .command _, s => s
  | .hardReset, s => resetRegisters s

/-- Acceptance of a command byte: `OPC` and `ARG_CONT` are its fields, `BUSY <- 1` (R26, R29, R71). -/
def accept (cmd : Byte) (s : State) : State :=
  { s with opc := cmd.extractLsb' 0 4, argCont := cmd.getLsbD 4, busy := true }

/-- The command byte that the latches `ARG_CONT` and `OPC` hold (R71). -/
def latchedCommand (s : State) : Byte := (0 : BitVec 3) ++ BitVec.ofBool s.argCont ++ s.opc

/-- The operation in progress, as the latches name it (R26, R72). -/
def runningOp (s : State) : Option Instr := (decodeHost (latchedCommand s)).toOption

/-- The byte address of the write in progress: `page_addr(ARG_PIDX)` in `WRITE_PAGE`, `ARG_ADDR` in the two standalone
phases (R83, R120, R122, R124). -/
def writeAddr (s : State) : Word := if runningOp s = some .writePage then pageAddr s.argPidx else s.argAddr

end Sys2Proof.Machine
end

