-- ==== Sys2Proof/Machine/Ops.lean ====
section
/-! DEFINITION. The operations every meaning is made of: the transaction buffer, folding, the five transport
primitives, and the three ways an operation ends (`done`, `fail`, the end of a CRC operation). -/

namespace Sys2Proof.Machine

/-- `SEQ <- q` (R10, R24). -/
def setSeq (q : Seq) (s : State) : State := { s with seq := q }

/-- `ACC <- 0x0000`, the reset at the start of a transaction (R156). -/
def clearAcc (s : State) : State := { s with acc := 0 }

/-- Fold a list of bytes into `ACC`, first byte first (R10, R97). -/
def foldBytes (l : List Byte) (s : State) : State := { s with acc := crc16Fold s.acc l }

/-- `TB[0..n-1]` becomes `l`, the rest of `TB` stays, `TBLEN <- n` (R23). -/
def loadFrame (l : List Byte) (s : State) : State :=
  { s with tb := toBytes 37 (l ++ s.tb.toList.drop l.length), tbLen := BitVec.ofNat 6 l.length }

/-- Append an event to the trace (R55, R57). -/
def record (e : Event) (s : State) : State := { s with trace := s.trace ++ [e] }

/-! ### The transport primitives (R49 to R53) -/

/-- `p <- BusReset()` (R49). -/
def busReset (s : State) : Bool × State :=
  match s.env with
  | none => (s.oracle.takePresence.1, record (.rst s.oracle.takePresence.1) { s with oracle := s.oracle.takePresence.2 })
  | some e => (e.present, record (.rst e.present) { s with env := some e.busReset })

/-- The bytes received by an `Xchg` that sends `tx` (R50, R55): the oracle's, or the reference environment's where it
has an answer. -/
def received (tx : List Byte) (s : State) : List Byte :=
  match s.env with
  | none => (s.oracle.takeBytes tx.length).1
  | some e => (e.exchange tx s.busPower).1.getD (s.oracle.takeBytes tx.length).1

/-- What an `Xchg` that sends `tx` does outside PIOC (R31, R55). -/
def afterExchange (tx : List Byte) (s : State) : State :=
  match s.env with
  | none => { s with oracle := (s.oracle.takeBytes tx.length).2 }
  | some e =>
    let r := e.exchange tx s.busPower
    { s with env := some r.2, oracle := if r.1.isSome then s.oracle else (s.oracle.takeBytes tx.length).2 }

/-- `Xchg(n)`: `TB[0..n-1]` is sent, and overwritten in place by what is received (R50). -/
def exchange (n : Nat) (s : State) : State :=
  let tx := s.tb.toList.take n
  let rx := received tx s
  record (.xch tx rx) { afterExchange tx s with tb := toBytes 37 (rx ++ s.tb.toList.drop n) }

/-- `CONF <- ReadByte()` (R51, R122). -/
def readByte (s : State) : State :=
  match s.env with
  | none =>
    record (.rdb s.oracle.takeConfirm.1) { s with conf := s.oracle.takeConfirm.1, oracle := s.oracle.takeConfirm.2 }
  | some e =>
    let b := e.confirmByte s.oracle.takePick.1
    record (.rdb b) { s with conf := b, oracle := if e.toggles then s.oracle.takePick.2 else s.oracle }

/-- `Power(level)` (R52). -/
def setPower (level : PowerLevel) (s : State) : State := record (.pwr level) { s with busPower := level }

/-- `Sleep(T_SETTLE)` (R53). -/
def settle (s : State) : State :=
  record (.slp Config.tSettle) { s with env := s.env.map (Env.sleep Config.tSettle s.busPower) }

/-! ### The result of a read -/

/-- `RVALID <- 0`, the first micro-step of a read (R110 to R112). -/
def clearRvalid (s : State) : State := { s with rvalid := false }

/-- `RDATA <- d`, `RVALID <- 1` (R110, R111). -/
def storeData (d : Bytes 32) (s : State) : State := { s with rdata := d, rvalid := true }

/-! ### The end of an operation -/

/-- `fail <Code>`, the one thing a failure does (R10, R141): `STATUS <- Code`, `RVALID <- 0`, `SEQ <- S_IDLE`,
`BUSY <- 0`, and the host gets the code and no data (R112). Nothing is saved and there is nothing to return from (R142). -/
def fail (c : Status) (s : State) : State :=
  { s with status := c, rvalid := false, seq := .idle, busy := false, result := .failure c }

/-- `done` (R10, R171): `STATUS <- Ok`, `SEQ <- S_IDLE`, `BUSY <- 0`, and the host gets `r`. -/
def done (r : HostResult) (s : State) : State :=
  { s with status := .ok, seq := .idle, busy := false, result := r }

/-- The end of a CRC operation, which writes no `STATUS` (R29, R171; 90_conflicts.md C12). -/
def endCrc (r : HostResult) (s : State) : State :=
  { s with seq := .idle, busy := false, result := r }

/-- Whether the reference environment has left its definition. -/
def State.envOutside (s : State) : Bool :=
  match s.env with
  | none => false
  | some e => e.outside

/-- The first of `calls`, the states in which an operation makes its transport calls, whose call never returns (R166). -/
def hungCall (s : State) (calls : List State) : Option State :=
  s.hangAt.bind fun n => calls.find? fun p => p.trace.length == n

/-- An outcome that the work reaches in state `t`, unless the reference environment, where there is one, has left its
definition by then (R65 to R67). -/
def unlessRefused (s t : State) (o : Host.Outcome State Fault Refusal) : Host.Outcome State Fault Refusal :=
  if s.env.isSome && t.envOutside then .refused .environmentUndefined else o

/-- The outcome of work from `s` to `t` that makes its transport calls in the states `calls`, in order: it hangs in the call
that never returns (R166, U12: `stuck`), and goes no further; where every call returns it is the next state `t`. The state it hangs in is the one
in which the call is made: nothing of the call itself has taken effect, on `TB`, on the bus power level, or in the device.
The spec does not say how far such a call gets (DESIGN CHOICE, log entry 13). -/
def deliver (s : State) (calls : List State) (t : State) : Host.Outcome State Fault Refusal :=
  match hungCall s calls with
  | some p => unlessRefused s p (.fault (.transportHung p))
  | none => unlessRefused s t (.next t)

end Sys2Proof.Machine
end

