-- ==== Sys2Proof/Machine/CrcEngine.lean ====
section
/-! DEFINITION. The CRC16 Engine's three operations (spec/40_crc16.md). None makes a transport call, none can fail, none
writes `STATUS`. -/

namespace Sys2Proof.Machine

/-- `CRC.RESET` (R94). -/
def execCrcReset (s : State) : Host.Outcome State Fault Refusal := .next (endCrc .nothing (clearAcc s))

/-- `CRC.ACC` (R95): the result is the new `ACC`. -/
def execCrcAcc (s : State) : Host.Outcome State Fault Refusal :=
  let t := foldBytes [s.argByte] s
  .next (endCrc (.acc t.acc) t)

/-- `CRC.CHECK` (R96): the result is `VALID`, and no register is written. -/
def execCrcCheck (s : State) : Host.Outcome State Fault Refusal := .next (endCrc (.valid s.valid) s)

end Sys2Proof.Machine
end

