-- ==== Sys2Proof/Machine/Selector.lean ====
section
/-! DEFINITION. The Device Selector (spec/41_select.md). -/

namespace Sys2Proof.Machine

/-! Beside what an operation does there stand the states in which it makes its transport calls, in order (R57): in each
`SEQ` is at the call, and the calls before it are done. -/

/-- `S_SEL_RESET`: `PRESENT <- BusReset()` (R105). -/
def probe (s : State) : Bool × State :=
  let r := busReset (setSeq .selReset s)
  (r.1, setPresent r.1 r.2)

/-- Frame `W.MATCH`, about to be exchanged: 0x55 and a copy of the identifier in `TB` (R75, R105, R108). -/
def matchCall (ident : Bytes 8) (s : State) : State := loadFrame (encode (.wMatch ident)) (setSeq .selMatch s)

/-- `W.MATCH` exchanged (R75, R105). -/
def frameMatch (ident : Bytes 8) (s : State) : State := exchange 9 (matchCall ident s)

/-- The procedure `Select()`: whether a device is present, and the state after it (R105). -/
def select (s : State) : Bool × State :=
  let r := probe s
  (r.1, if r.1 then frameMatch r.2.id r.2 else r.2)

/-- The transport calls of `Select()` (R105). -/
def selectCalls (s : State) : List State :=
  setSeq .selReset s :: if (probe s).1 then [matchCall (probe s).2.id (probe s).2] else []

/-- `SELECT` (R105). -/
def execSelect (s : State) : Host.Outcome State Fault Refusal :=
  let r := select s
  deliver s (selectCalls s) (if r.1 then done .success r.2 else fail .deviceAbsent r.2)

/-- `W.MATCH` (R75). -/
def execWMatch (ident : Bytes 8) (s : State) : Host.Outcome State Fault Refusal :=
  deliver s [matchCall ident s] (frameMatch ident s)

end Sys2Proof.Machine
end

