-- ==== Sys2Proof/Machine/Reader.lean ====
section
/-! DEFINITION. The Page Reader (spec/42_read.md). -/

namespace Sys2Proof.Machine

/-- The start of a read transaction: `SEQ <- S_RD_HDR`, `ACC <- 0` (R110, R111). -/
def enterRead (s : State) : State := clearAcc (setSeq .rdHdr s)

/-- Frame `W.READ`, about to be exchanged: the three header bytes are folded as sent (R76, R110). -/
def readCall (addr : Word) (s : State) : State :=
  setSeq .rdXchg (loadFrame (encode (.wRead addr)) (foldBytes [cmdRead, lo8 addr, hi8 addr] (setSeq .rdHdr s)))

/-- `W.READ` exchanged: the 34 bytes after the header are folded as received (R76, R110). -/
def frameRead (addr : Word) (s : State) : State :=
  let s := setSeq .rdFold (exchange 37 (readCall addr s))
  foldBytes ((s.tb.toList.drop 3).take 34) s

/-- Frame `W.READC`, about to be exchanged (R77, R111). -/
def readcCall (s : State) : State := setSeq .rdXchg (loadFrame (encode .wReadc) (setSeq .rdHdr s))

/-- `W.READC` exchanged: the 34 bytes received are folded (R77, R111). -/
def frameReadc (s : State) : State :=
  let s := setSeq .rdFold (exchange 34 (readcCall s))
  foldBytes (s.tb.toList.take 34) s

/-- `S_RD_CHECK`: data and success iff `ACC = 0xB001`, else no data (R110 to R112). The data start at `TB[k]`. -/
def finishRead (k : Nat) (s : State) : State :=
  let s := setSeq .rdCheck s
  if s.valid then
    let d := toBytes 32 ((s.tb.toList.drop k).take 32)
    done (.data d) (storeData d s)
  else fail .integrityMismatch s

/-- The transport calls of `READ_PAGE` (R110). -/
def readPageCalls (s : State) : List State :=
  let r := select (clearRvalid s)
  selectCalls (clearRvalid s) ++ if r.1 then [readCall (pageAddr r.2.argPidx) (enterRead r.2)] else []

/-- `READ_PAGE` (R110). -/
def execReadPage (s : State) : Host.Outcome State Fault Refusal :=
  let r := select (clearRvalid s)
  deliver s (readPageCalls s)
    (if r.1 then finishRead 3 (frameRead (pageAddr r.2.argPidx) (enterRead r.2)) else fail .deviceAbsent r.2)

/-- `READ_PAGE.C` (R111). -/
def execReadPageC (s : State) : Host.Outcome State Fault Refusal :=
  let u := enterRead (clearRvalid s)
  deliver s [readcCall u] (finishRead 0 (frameReadc u))

/-- `W.READ` (R76). -/
def execWRead (addr : Word) (s : State) : Host.Outcome State Fault Refusal :=
  deliver s [readCall addr s] (frameRead addr s)

/-- `W.READC` (R77). -/
def execWReadc (s : State) : Host.Outcome State Fault Refusal := deliver s [readcCall s] (frameReadc s)

end Sys2Proof.Machine
end

