-- ==== Sys2Proof/Machine/Writer.lean ====
section
/-! DEFINITION. The Page Writer (spec/43_write.md): the two phases, the three operations, the three frames. -/

namespace Sys2Proof.Machine

/-- The start of a write-scratchpad transaction: `SEQ <- S_WS_BUILD`, `ACC <- 0` (R120). -/
def enterScratch (s : State) : State := clearAcc (setSeq .wsBuild s)

/-- Frame `W.WSP`, about to be exchanged: the 35 bytes before the placeholders are folded as sent (R78, R120, R121). -/
def wspCall (addr : Word) (data : Bytes 32) (s : State) : State :=
  setSeq .wsXchg (loadFrame (encode (.wWsp addr data))
    (foldBytes (cmdWsp :: lo8 addr :: hi8 addr :: data.toList) (setSeq .wsBuild s)))

/-- `W.WSP` exchanged: the two bytes in the placeholders' positions are folded as received (R78, R120, R121). -/
def frameWsp (addr : Word) (data : Bytes 32) (s : State) : State :=
  let s := setSeq .wsFold (exchange 37 (wspCall addr data s))
  foldBytes ((s.tb.toList.drop 35).take 2) s

/-- Frame `W.COPY`, about to be exchanged (R79, R122). -/
def copyCall (addr : Word) (s : State) : State := loadFrame (encode (.wCopy addr)) (setSeq .cpCmd s)

/-- `W.COPY` exchanged: nothing is folded (R79, R122). -/
def frameCopy (addr : Word) (s : State) : State := exchange 3 (copyCall addr s)

/-- Frame `W.AUTH`, about to be exchanged (R80, R123). -/
def authCall (s : State) : State := loadFrame (encode .wAuth) (setSeq .cpAuth s)

/-- `W.AUTH` exchanged: nothing is folded (R80, R123). -/
def frameAuth (s : State) : State := exchange 1 (authCall s)

/-- `S_CP_PWR_ON` (R122). -/
def powerOn (s : State) : State := setPower .strong (setSeq .cpPwrOn s)

/-- `S_CP_WAIT` (R122). -/
def waitSettle (s : State) : State := settle (setSeq .cpWait s)

/-- `S_CP_PWR_OFF` (R122). -/
def powerOff (s : State) : State := setPower .standard (setSeq .cpPwrOff s)

/-- `S_CP_CONF` (R122). -/
def confirm (s : State) : State := readByte (setSeq .cpConf s)

/-- The compare of `S_WS_CHECK` (R120). -/
def scratchCode (s : State) : Status := if s.valid then .ok else .integrityMismatch

/-- The compare of `S_CP_CHECK` (R82, R122, R128). -/
def copyCode (s : State) : Status := if confOk s.conf then .ok else .commitAmbiguous

/-- `Phase1(A, D)`: its code and the state after it (R120). -/
def phase1 (addr : Word) (data : Bytes 32) (s : State) : Status × State :=
  let r := select s
  if r.1 then
    let t := setSeq .wsCheck (frameWsp addr data (enterScratch r.2))
    (scratchCode t, t)
  else (.deviceAbsent, r.2)

/-- The transport calls of Phase 1 (R120). -/
def phase1Calls (addr : Word) (data : Bytes 32) (s : State) : List State :=
  selectCalls s ++ if (select s).1 then [wspCall addr data (enterScratch (select s).2)] else []

/-- `Phase2(A)`: its code and the state after it (R122, R123). -/
def phase2 (addr : Word) (s : State) : Status × State :=
  let r := select s
  if r.1 then
    let t := setSeq .cpCheck (confirm (powerOff (waitSettle (frameAuth (powerOn (frameCopy addr r.2))))))
    (copyCode t, t)
  else (.deviceAbsent, r.2)

/-- The transport calls of Phase 2 after its selection (R122, R123). -/
def copyCalls (addr : Word) (s : State) : List State :=
  let afterCopy := frameCopy addr s
  let afterOn := powerOn afterCopy
  let afterAuth := frameAuth afterOn
  let afterWait := waitSettle afterAuth
  let afterOff := powerOff afterWait
  [copyCall addr s, setSeq .cpPwrOn afterCopy, authCall afterOn, setSeq .cpWait afterAuth, setSeq .cpPwrOff afterWait,
    setSeq .cpConf afterOff]

/-- The transport calls of Phase 2 (R122). -/
def phase2Calls (addr : Word) (s : State) : List State :=
  selectCalls s ++ if (select s).1 then copyCalls addr (select s).2 else []

/-- `WSTATE <- w` (R25, R125). -/
def setWState (w : WState) (s : State) : State := { s with wstate := w }

/-- How an operation ends on a phase's code (R120, R122, R124). -/
def finishPhase (r : Status × State) : State := if r.1 = .ok then done .success r.2 else fail r.1 r.2

/-- `WRITE_SCRATCHPAD` (R120). -/
def execWriteScratchpad (s : State) : Host.Outcome State Fault Refusal :=
  deliver s (phase1Calls s.argAddr s.wdata s) (finishPhase (phase1 s.argAddr s.wdata s))

/-- `COPY_SCRATCHPAD` (R122). -/
def execCopyScratchpad (s : State) : Host.Outcome State Fault Refusal :=
  deliver s (phase2Calls s.argAddr s) (finishPhase (phase2 s.argAddr s))

/-- What `WRITE_PAGE` does after a successful Phase 1 (R124, R125). -/
def commitStaged (addr : Word) (s : State) : State :=
  let r := phase2 addr (setWState .scratchpadStaged s)
  finishPhase (r.1, setWState (if r.1 = .ok then .committed else .unknown) r.2)

/-- `WRITE_PAGE` up to its end (R124). -/
def writePage (s : State) : State :=
  let addr := pageAddr s.argPidx
  let r := phase1 addr s.wdata (setWState .idle s)
  if r.1 = .ok then commitStaged addr r.2 else fail r.1 (setWState .aborted r.2)

/-- The transport calls of `WRITE_PAGE`: at most 11 (R124, R166). -/
def writePageCalls (s : State) : List State :=
  let addr := pageAddr s.argPidx
  let r := phase1 addr s.wdata (setWState .idle s)
  phase1Calls addr s.wdata (setWState .idle s) ++
    if r.1 = .ok then phase2Calls addr (setWState .scratchpadStaged r.2) else []

/-- `WRITE_PAGE` (R124). -/
def execWritePage (s : State) : Host.Outcome State Fault Refusal := deliver s (writePageCalls s) (writePage s)

/-- `W.WSP` (R78). -/
def execWWsp (addr : Word) (data : Bytes 32) (s : State) : Host.Outcome State Fault Refusal :=
  deliver s [wspCall addr data s] (frameWsp addr data s)

/-- `W.COPY` (R79). -/
def execWCopy (addr : Word) (s : State) : Host.Outcome State Fault Refusal :=
  deliver s [copyCall addr s] (frameCopy addr s)

/-- `W.AUTH` (R80). -/
def execWAuth (s : State) : Host.Outcome State Fault Refusal := deliver s [authCall s] (frameAuth s)

end Sys2Proof.Machine
end

