-- ==== Sys2Proof/Machine/Dispatch.lean ====
section
/-! DEFINITION. One arm per instruction. -/

namespace Sys2Proof.Machine

def exec (i : Instr) (s : State) : Host.Outcome State Fault Refusal :=
  match i with
  | .crcReset => Sys2Proof.Machine.execCrcReset s
  | .crcAcc => Sys2Proof.Machine.execCrcAcc s
  | .crcCheck => Sys2Proof.Machine.execCrcCheck s
  | .select => Sys2Proof.Machine.execSelect s
  | .readPage => Sys2Proof.Machine.execReadPage s
  | .readPageC => Sys2Proof.Machine.execReadPageC s
  | .writeScratchpad => Sys2Proof.Machine.execWriteScratchpad s
  | .copyScratchpad => Sys2Proof.Machine.execCopyScratchpad s
  | .writePage => Sys2Proof.Machine.execWritePage s
  | .wMatch ident => Sys2Proof.Machine.execWMatch ident s
  | .wRead addr => Sys2Proof.Machine.execWRead addr s
  | .wReadc => Sys2Proof.Machine.execWReadc s
  | .wWsp addr data => Sys2Proof.Machine.execWWsp addr data s
  | .wCopy addr => Sys2Proof.Machine.execWCopy addr s
  | .wAuth => Sys2Proof.Machine.execWAuth s

end Sys2Proof.Machine
end

