-- ==== Sys2Proof/Machine/Sequencer.lean ====
section
/-! DEFINITION. The sequencer in the middle of an operation (R11, R24): while `BUSY = 1` one step is the work of one
`SEQ` state, at most one transport call. From the states where a frame begins, the step runs that frame whole; the
frame's own `SEQ` states (`S_RD_XCHG`, `S_RD_FOLD`, `S_WS_XCHG`, `S_WS_FOLD`) are passed through inside it, and
have a step of their own only for a state that is given in the middle of a frame. -/

namespace Sys2Proof.Machine

/-- The bus frame that begins at the control position: by position in the protocol and the operand latches (R24, R85). -/
def frameAt (s : State) : Option Instr :=
  match s.seq with
  | .selMatch => some (.wMatch s.id)
  | .rdHdr => some (if s.argCont then .wReadc else .wRead (pageAddr s.argPidx))
  | .wsBuild => some (.wWsp (writeAddr s) s.wdata)
  | .cpCmd => some (.wCopy (writeAddr s))
  | .cpAuth => some .wAuth
  | .idle | .selReset | .rdXchg | .rdFold | .rdCheck | .wsXchg | .wsFold | .wsCheck
  | .cpPwrOn | .cpWait | .cpPwrOff | .cpConf | .cpCheck => none

/-- The return from the Device Selector to the operation that called it (R24, R105). -/
def leaveSelector (s : State) : State :=
  match runningOp s with
  | some .readPage => enterRead s
  | some .writeScratchpad => enterScratch s
  | some .copyScratchpad => setSeq .cpCmd s
  | some .writePage => if s.wstate = .scratchpadStaged then setSeq .cpCmd s else enterScratch s
  | _ => done .success s

/-- Where the sequencer goes after a frame (R24). -/
def leaveFrame (s : State) : State :=
  match s.seq with
  | .selMatch => leaveSelector s
  | .rdFold => setSeq .rdCheck s
  | .wsFold => setSeq .wsCheck s
  | .cpCmd => setSeq .cpPwrOn s
  | .cpAuth => setSeq .cpWait s
  | .idle | .selReset | .rdHdr | .rdXchg | .rdCheck | .wsBuild | .wsXchg | .wsCheck
  | .cpPwrOn | .cpWait | .cpPwrOff | .cpConf | .cpCheck => s

/-- The first micro-step of an accepted operation (R94 to R96, R105, R110, R111, R120, R122, R124). -/
def beginOp (s : State) : Host.Outcome State Fault Refusal :=
  match runningOp s with
  | some .crcReset => execCrcReset s
  | some .crcAcc => execCrcAcc s
  | some .crcCheck => execCrcCheck s
  | some .select => .next (setSeq .selReset s)
  | some .readPage => .next (setSeq .selReset (clearRvalid s))
  | some .readPageC => .next (enterRead (clearRvalid s))
  | some .writeScratchpad => .next (setSeq .selReset s)
  | some .copyScratchpad => .next (setSeq .selReset s)
  | some .writePage => .next (setSeq .selReset (setWState .idle s))
  | _ => .refused .reservedCommand

/-- A selection that found no device ends the operation (R105, R124, R127, R136). -/
def failSelection (s : State) : State :=
  if runningOp s = some .writePage then
    fail .deviceAbsent (setWState (if s.wstate = .scratchpadStaged then .unknown else .aborted) s)
  else fail .deviceAbsent s

/-- `S_WS_CHECK`: the end of Phase 1, from which `WRITE_PAGE` goes on to Phase 2 (R24, R120, R124). -/
def checkScratch (s : State) : State :=
  if runningOp s = some .writePage then
    if s.valid then setSeq .selReset (setWState .scratchpadStaged s)
    else fail .integrityMismatch (setWState .aborted s)
  else finishPhase (scratchCode s, s)

/-- `S_CP_CHECK`: the end of Phase 2 (R122, R124). -/
def checkCopy (s : State) : State :=
  if runningOp s = some .writePage then
    finishPhase (copyCode s, setWState (if copyCode s = .ok then .committed else .unknown) s)
  else finishPhase (copyCode s, s)

/-- The position in `TB` of the first byte of a read's data (R76, R77). -/
def readOffset (s : State) : Nat := if s.argCont then 0 else 3

/-- The step at a control position where no frame begins (R24). A position where one begins (see frameAt) has no step
here. -/
def sequencerStep (s : State) : Host.Outcome State Fault Refusal :=
  match s.seq with
  | .idle => beginOp s
  | .selReset =>
    deliver s [setSeq .selReset s] (if (probe s).1 then setSeq .selMatch (probe s).2 else failSelection (probe s).2)
  | .rdXchg => deliver s [s] (setSeq .rdFold (exchange s.tbLen.toNat s))
  | .rdFold => .next (setSeq .rdCheck (foldBytes ((s.tb.toList.drop (readOffset s)).take 34) s))
  | .rdCheck => .next (finishRead (readOffset s) s)
  | .wsXchg => deliver s [s] (setSeq .wsFold (exchange s.tbLen.toNat s))
  | .wsFold => .next (setSeq .wsCheck (foldBytes ((s.tb.toList.drop 35).take 2) s))
  | .wsCheck => .next (checkScratch s)
  | .cpPwrOn => deliver s [s] (setSeq .cpAuth (powerOn s))
  | .cpWait => deliver s [s] (setSeq .cpPwrOff (waitSettle s))
  | .cpPwrOff => deliver s [s] (setSeq .cpConf (powerOff s))
  | .cpConf => deliver s [s] (setSeq .cpCheck (confirm s))
  | .cpCheck => .next (checkCopy s)
  | .selMatch | .rdHdr | .wsBuild | .cpCmd | .cpAuth => .next s

/-- What follows a frame's outcome. -/
def andLeaveFrame : Host.Outcome State Fault Refusal → Host.Outcome State Fault Refusal
  | .next s => .next (leaveFrame s)
  | .fault r => .fault r
  | .refused r => .refused r

/-- A state whose next step runs a given frame: the sequencer stands at the frame's position in an operation that
sends it, and the frame's operands are in the latches (R24, R26, R85; log entry 9). For a host operation nothing is placed. -/
def placeFrame (i : Instr) (s : State) : State :=
  match i with
  | .wMatch ident => { s with busy := true, opc := 3, argCont := false, seq := .selMatch, id := ident }
  | .wRead addr => { s with busy := true, opc := 4, argCont := false, seq := .rdHdr, argPidx := addr >>> 5 }
  | .wReadc => { s with busy := true, opc := 4, argCont := true, seq := .rdHdr }
  | .wWsp addr data =>
    { s with busy := true, opc := 5, argCont := false, seq := .wsBuild, argAddr := addr, wdata := data }
  | .wCopy addr => { s with busy := true, opc := 6, argCont := false, seq := .cpCmd, argAddr := addr }
  | .wAuth => { s with busy := true, opc := 6, argCont := false, seq := .cpAuth }
  | .crcReset | .crcAcc | .crcCheck | .select | .readPage | .readPageC
  | .writeScratchpad | .copyScratchpad | .writePage => s

/-- A table word as PIOC's next work: a frame at the sequencer's position, any other word as the command byte the host
presents next, with PIOC idle (R71, R172; log entry 9). -/
def placeWord (nbits w : Nat) (s : State) : State :=
  match decodeTableWord nbits w with
  | some (.wMatch ident) => placeFrame (.wMatch ident) s
  | some (.wRead addr) => placeFrame (.wRead addr) s
  | some .wReadc => placeFrame .wReadc s
  | some (.wWsp addr data) => placeFrame (.wWsp addr data) s
  | some (.wCopy addr) => placeFrame (.wCopy addr) s
  | some .wAuth => placeFrame .wAuth s
  | _ => { s with busy := false, seq := .idle, inbox := .command (tableByte w 0) :: s.inbox }

end Sys2Proof.Machine
end

