-- ==== Sys2Proof/Machine/HostPort.lean ====
section
/-! DEFINITION. What one step does: the host port of an idle PIOC (R7, R71, R172), and the sequencer of a busy one
(R11, R24). -/

namespace Sys2Proof.Machine

/-- The host presents a command byte (R71, R72). While `BUSY = 1` it is refused, and so is a reserved byte; refused
means: not started (R84, R151). -/
def present (cmd : Byte) (s : State) : Host.Outcome State Fault Refusal :=
  if s.busy then .refused .busyCommand
  else
    match decodeHost cmd with
    | .error _ => .refused .reservedCommand
    | .ok i => exec i (accept cmd s)

/-- One move of the outside on an idle PIOC; without a move PIOC stays idle (R7, R142, R172). -/
def hostStep (s : State) : Host.Outcome State Fault Refusal :=
  match s.inbox with
  | [] => .next s
  | .command cmd :: rest => present cmd { s with inbox := rest }
  | m :: rest => .next (hostWrite m { s with inbox := rest })

/-- One step of the sequencer in the middle of an operation. -/
def busyStep (s : State) : Host.Outcome State Fault Refusal :=
  match frameAt s with
  | some i => andLeaveFrame (exec i s)
  | none => sequencerStep s

end Sys2Proof.Machine
end

