-- ==== Sys2Proof/Machine/Step.lean ====
section
/-! DEFINITION. One step. Idle, PIOC takes the next move of the outside, and a command byte it accepts runs its whole
operation (R11: atomic from the host's view). Busy, it makes one step of the sequencer. -/

namespace Sys2Proof.Machine

/-- One step of the machine. -/
def step (s : State) : Host.Outcome State Fault Refusal :=
  if s.busy then busyStep s else hostStep s

/-- `s` with a table word as its next work (log entry 9). -/
def State.withFetchWord (s : State) (nbits w : Nat) : State := placeWord nbits w s

end Sys2Proof.Machine
end

