-- ==== Sys2Proof/WellFormed.lean ====
section
/-! DEFINITION. Which instructions the encodings admit. The types already bound every operand (an identifier has
8 bytes, a payload 32, an address 16 bits); one condition is left. -/

namespace Sys2Proof

/-- The address of `W.READ` is `page_addr(ARG_PIDX)` (R76), whose low five bits are always 0 (R41). Every other
frame takes any operand (R46, R73). -/
def Instr.wellFormed : Instr → Bool
  | .wRead addr => addr.extractLsb' 0 5 == 0
  | .crcReset | .crcAcc | .crcCheck | .select | .readPage | .readPageC
  | .writeScratchpad | .copyScratchpad | .writePage
  | .wMatch _ | .wReadc | .wWsp _ _ | .wCopy _ | .wAuth => true

end Sys2Proof
end

