-- ==== Sys2Proof/Safety.lean ====
section
/-! DEFINITION. What claims use: the end of an operation, the invariant of the machine, the instructions by kind, and
what two states have in common. -/

namespace Sys2Proof.Machine

/-- The nine host operations (R3, R72). -/
def hostOps : List Instr :=
  [.crcReset, .crcAcc, .crcCheck, .select, .readPage, .readPageC, .writeScratchpad, .copyScratchpad, .writePage]

/-- The three CRC operations, which make no transport call (R94 to R96). -/
def crcOps : List Instr := [.crcReset, .crcAcc, .crcCheck]

/-- The operations that begin with a selection (R106). -/
def selectingOps : List Instr := [.select, .readPage, .writeScratchpad, .copyScratchpad, .writePage]

/-- An operation has ended, with respect to the registers of R171: `BUSY = 0`, `SEQ = S_IDLE`, bus power `standard`. -/
def State.ended (s : State) : Prop := s.busy = false ∧ s.seq = .idle ∧ s.busPower = .standard

/-- The running operation has Phase 2's control positions: the standalone copy, or `WRITE_PAGE` past Phase 1 (R24, R25). -/
def State.inPhase2 (s : State) : Prop :=
  (runningOp s = some .copyScratchpad ∧ s.wstate ≠ .scratchpadStaged) ∨
    (runningOp s = some .writePage ∧ s.wstate = .scratchpadStaged)

/-- The running operation has Phase 1's control positions (R24, R25). -/
def State.inPhase1 (s : State) : Prop :=
  (runningOp s = some .writeScratchpad ∧ s.wstate ≠ .scratchpadStaged) ∨
    (runningOp s = some .writePage ∧ s.wstate = .idle)

/-- The running operation begins with a selection, and `ScratchpadStaged` is only inside `WRITE_PAGE` (R25, R106). -/
def State.inSelection (s : State) : Prop :=
  (s.wstate ≠ .scratchpadStaged ∧
      (runningOp s = some .select ∨ runningOp s = some .readPage ∨ runningOp s = some .writeScratchpad ∨
        runningOp s = some .copyScratchpad)) ∨
    (runningOp s = some .writePage ∧ (s.wstate = .idle ∨ s.wstate = .scratchpadStaged))

/-- The running operation is a read, and `ARG_CONT` tells which (R24, R26). -/
def State.inRead (s : State) : Prop :=
  s.wstate ≠ .scratchpadStaged ∧ (runningOp s = some .readPage ∨ runningOp s = some .readPageC)

/-- The control position belongs to the operation in progress, and the bus power is `strong` exactly from
`Power(strong)` to `Power(standard)` (R24, R122). -/
def State.seqFits (s : State) : Prop :=
  match s.seq with
  | .idle => (runningOp s).isSome = true ∧ s.wstate ≠ .scratchpadStaged ∧ s.busPower = .standard
  | .selReset | .selMatch => s.inSelection ∧ s.busPower = .standard
  | .rdHdr | .rdXchg | .rdFold | .rdCheck => s.inRead ∧ s.busPower = .standard
  | .wsBuild | .wsXchg | .wsFold | .wsCheck => s.inPhase1 ∧ s.busPower = .standard
  | .cpCmd | .cpPwrOn | .cpConf | .cpCheck => s.inPhase2 ∧ s.busPower = .standard
  | .cpAuth | .cpWait | .cpPwrOff => s.inPhase2 ∧ s.busPower = .strong

/-- The reference environment, where there is one, is inside its definition and its memory is in canonical form. -/
def State.envFits (s : State) : Prop :=
  match s.env with
  | none => True
  | some e => e.outside = false ∧ e.mem.wf = true

/-- The invariant of the machine: between operations it is ended and the write state machine is not in mid-call (R25,
R171), during one the control position fits the operation, `TBLEN` is at most 37 (R23), and the environment fits. -/
def State.Inv (s : State) : Prop :=
  (s.busy = false → s.ended ∧ s.wstate ≠ .scratchpadStaged) ∧
    (s.busy = true → s.seqFits) ∧ s.tbLen.toNat ≤ 37 ∧ s.envFits

/-- What no operation of PIOC writes: `ID` (R22), the operand latches (R26), and what lies outside PIOC's reach (the
transport call that never returns, the moves still to come). -/
def State.sameInputs (s t : State) : Prop :=
  t.id = s.id ∧ t.opc = s.opc ∧ t.argCont = s.argCont ∧ t.argPidx = s.argPidx ∧ t.argAddr = s.argAddr ∧
    t.argByte = s.argByte ∧ t.wdata = s.wdata ∧ t.hangAt = s.hangAt ∧ t.inbox = s.inbox

/-- The bus and what lies behind it: no transport call was made, no draw, and the device is as before (R31, R55). -/
def State.sameBus (s t : State) : Prop :=
  t.trace = s.trace ∧ t.oracle = s.oracle ∧ t.env = s.env ∧ t.busPower = s.busPower ∧ t.tb = s.tb ∧ t.tbLen = s.tbLen

/-- The transport returns from every call and the oracle answers (R55, R157 (2)): no environment is assumed. -/
def State.oracleAnswers (s : State) : Prop := s.bounded = true ∧ s.env = none

/-- The frame `W.WSP` on the wire (R78). -/
def scratchFrame (addr : Word) (data : Bytes 32) : List Byte :=
  [0x0F, lo8 addr, hi8 addr] ++ data.toList ++ [0xFF, 0xFF]

/-- The accumulator after the 35 bytes of `W.WSP` that are folded as sent (R120, R131). -/
def scratchAcc (addr : Word) (data : Bytes 32) : Word := crc16Fold 0 ([0x0F, lo8 addr, hi8 addr] ++ data.toList)

/-- The events of a selection that found a device, with the bytes received (R105). -/
def selectEvents (s : State) (rx : List Byte) : List Event := [.rst true, .xch (0x55 :: s.id.toList) rx]

/-- The events of Phase 2 after its selection: the bytes received by the copy frame and by the authorization byte, and
the confirmation byte (R122, R123). -/
def copyEvents (addr : Word) (rxCopy rxAuth : List Byte) (c : Byte) : List Event :=
  [.xch [0x55, lo8 addr, hi8 addr] rxCopy, .pwr .strong, .xch [0x1F] rxAuth, .slp Config.tSettle, .pwr .standard, .rdb c]

/-- What the host and the environment see of an operation's end (R11, R55): the trace and the oracle behind it, the
environment and the power level, and the registers other than the write state machine and the operand latches. -/
def State.sameOutcome (s t : State) : Prop :=
  t.trace = s.trace ∧ t.oracle = s.oracle ∧ t.env = s.env ∧ t.busPower = s.busPower ∧ t.status = s.status ∧
    t.result = s.result ∧ t.acc = s.acc ∧ t.conf = s.conf ∧ t.present = s.present ∧ t.rdata = s.rdata ∧
    t.rvalid = s.rvalid ∧ t.tb = s.tb ∧ t.tbLen = s.tbLen

/-- An outcome with its state, the next one or the one in which PIOC hangs, seen through `f`. -/
def viewState (f : State → State) : Host.Outcome State Fault Refusal → Host.Outcome State Fault Refusal
  | .next s => .next (f s)
  | .fault (.transportHung p) => .fault (.transportHung (f p))
  | .refused r => .refused r

/-- `n` steps, stopping at the first fault or refusal. -/
def runSteps : Nat → State → Host.Outcome State Fault Refusal
  | 0, s => .next s
  | n + 1, s =>
    match step s with
    | .next t => runSteps n t
    | .fault r => .fault r
    | .refused r => .refused r

/-- The failure codes each operation can report (R139). -/
def mayReport : Instr → Status → Prop
  | .select, c => c = .deviceAbsent
  | .readPage, c => c = .deviceAbsent ∨ c = .integrityMismatch
  | .readPageC, c => c = .integrityMismatch
  | .writeScratchpad, c => c = .deviceAbsent ∨ c = .integrityMismatch
  | .copyScratchpad, c => c = .deviceAbsent ∨ c = .commitAmbiguous
  | .writePage, c => c = .deviceAbsent ∨ c = .integrityMismatch ∨ c = .commitAmbiguous
  | _, _ => False

/-- The reference environment holds a device that matches `ID`, with `N_PAGES` as D6 bounds it, and has not left its
definition: the premises of R69 (R63, R64). -/
def State.deviceReady (s : State) (e : Env) : Prop :=
  s.bounded = true ∧ s.env = some e ∧ e.present = true ∧ e.outside = false ∧ e.devId = s.id ∧ e.nPages ≤ 2048

end Sys2Proof.Machine
end

