-- ==== Sys2Proof/Certificates/Slice0/Obligations.lean ====
section
/-! DEFINITION. The statements for the provers, each from the rules of spec/ that its docstring names. -/

open Sys2Proof Sys2Proof.Machine

/-! ### Encoding -/

/-- Every well-formed instruction is read back from its bytes, with every operand (R71, R72, R75 to R80). -/
def Obligations.DecodeOfEncodeIsTheInstruction : Prop :=
  ∀ i : Instr, i.wellFormed = true → decode i.format (encode i) = .ok i

/-- Whatever the decoder accepts is the encoding of the instruction it answers, in that format, and well formed: no
byte is dropped and no other byte string is read as the instruction (R75 to R81, R84 to R86). That a `W.READ` of an address
that is no page address is not accepted, and so "well formed" says something of it, is the model's inference from R41 and
R76 (DEDUCED, log entry 16). -/
def Obligations.AcceptedBytesAreTheEncoding : Prop :=
  ∀ (f : Format) (l : List Byte) (i : Instr),
    decode f l = .ok i → encode i = l ∧ i.format = f ∧ i.wellFormed = true

/-- Words written out from the tables of R72 and R75 to R80, and 0x55 by its position (R85). -/
def Obligations.TableWordsDecode : Prop :=
  decode .host [0x00] = .ok .crcReset ∧ decode .host [0x01] = .ok .crcAcc ∧ decode .host [0x02] = .ok .crcCheck ∧
  decode .host [0x03] = .ok .select ∧ decode .host [0x04] = .ok .readPage ∧ decode .host [0x14] = .ok .readPageC ∧
  decode .host [0x05] = .ok .writeScratchpad ∧ decode .host [0x06] = .ok .copyScratchpad ∧
  decode .host [0x07] = .ok .writePage ∧
  decode .wsel [0x55, 0x43, 0x11, 0x22, 0x33, 0x44, 0x55, 0x66, 0x77]
    = .ok (.wMatch ⟨#[0x43, 0x11, 0x22, 0x33, 0x44, 0x55, 0x66, 0x77], rfl⟩) ∧
  decode .wmem [0x55, 0x60, 0x00] = .ok (.wCopy 0x0060) ∧
  decode .wmem ([0xA5, 0xE0, 0x09] ++ List.replicate 34 0xFF) = .ok (.wRead 0x09E0) ∧
  decode .wauth [0x1F] = .ok .wAuth

/-- R84, R151: presented to an idle PIOC, a command byte with `RSV != 000`, with `OPC` in 0x8 to 0xF, or with `CONT = 1`
and `OPC != 0x4` is refused and not started; every other byte starts one of the nine operations, with `OPC`, `ARG_CONT` and
`BUSY` latched (R26, R29, R71, R72). That a refusal ends the model's run is the model's inference (DEDUCED, log entry 14). -/
def Obligations.ReservedCommandBytesAreRefused : Prop :=
  ∀ (b : Byte) (s : State), s.busy = false →
    if b.extractLsb' 5 3 ≠ 0 ∨ 8 ≤ (b.extractLsb' 0 4).toNat ∨ (b.getLsbD 4 = true ∧ b.extractLsb' 0 4 ≠ 4) then
      present b s = .refused .reservedCommand
    else ∃ i, i ∈ hostOps ∧ decodeHost b = .ok i ∧ present b s = exec i (accept b s)

/-- R41, R83: the page address is the index times 32 in 16 bits, its low five bits are 0, indexes 2048 apart share it,
its low byte is `{i[2:0], 00000}` and its high byte `i[10:3]`; with the examples of R83. -/
def Obligations.PageAddressLaw : Prop :=
  (∀ i : Word,
    (pageAddr i).toNat = i.toNat * 32 % 65536 ∧ (pageAddr i).extractLsb' 0 5 = 0 ∧
    (∀ j : Word, j.toNat = i.toNat % 2048 → pageAddr i = pageAddr j) ∧
    lo8 (pageAddr i) = i.extractLsb' 0 3 ++ (0 : BitVec 5) ∧ hi8 (pageAddr i) = i.extractLsb' 3 8) ∧
  pageAddr 3 = 0x0060 ∧ pageAddr 79 = 0x09E0 ∧ pageAddr 2047 = 0xFFE0 ∧ pageAddr 2048 = 0

/-! ### CRC16 Engine -/

/-- R91, R92: the table, its closed form, and the parity of the whole byte. -/
def Obligations.ParityConditionIsTheByteParity : Prop :=
  (List.range 16).map (fun n => (oddPar (BitVec.ofNat 4 n)).toNat) = [0, 1, 1, 0, 1, 0, 0, 1, 1, 0, 0, 1, 0, 1, 1, 0] ∧
  (∀ n : BitVec 4, oddPar n = (n.getLsbD 3 ^^ n.getLsbD 2 ^^ n.getLsbD 1 ^^ n.getLsbD 0)) ∧
  (∀ c : Byte, parityOdd c = (c.getLsbD 7 ^^ c.getLsbD 6 ^^ c.getLsbD 5 ^^ c.getLsbD 4 ^^ c.getLsbD 3 ^^
    c.getLsbD 2 ^^ c.getLsbD 1 ^^ c.getLsbD 0))

/-- R93: the sixteen bits of the update, with `c` the XORed byte, `P` its parity and `h` the accumulator's high byte. -/
def Obligations.UpdateBitByBit : Prop :=
  ∀ (acc : Word) (b c h : Byte) (P : Bool) (t : Word),
    c = b ^^^ lo8 acc → h = hi8 acc →
    P = (c.getLsbD 7 ^^ c.getLsbD 6 ^^ c.getLsbD 5 ^^ c.getLsbD 4 ^^ c.getLsbD 3 ^^ c.getLsbD 2 ^^ c.getLsbD 1 ^^ c.getLsbD 0) →
    t = crc16Update acc b →
    t.getLsbD 15 = P ∧ t.getLsbD 14 = (P ^^ c.getLsbD 7) ∧
    (∀ k, 8 ≤ k → k ≤ 13 → t.getLsbD k = (c.getLsbD (k - 6) ^^ c.getLsbD (k - 7))) ∧
    t.getLsbD 7 = (h.getLsbD 7 ^^ c.getLsbD 1 ^^ c.getLsbD 0) ∧ t.getLsbD 6 = (h.getLsbD 6 ^^ c.getLsbD 0) ∧
    (∀ k, 1 ≤ k → k ≤ 5 → t.getLsbD k = h.getLsbD k) ∧ t.getLsbD 0 = (h.getLsbD 0 ^^ P)

/-- R98: for every accumulator and byte the update is eight steps of the bit-serial CRC-16 with 0xA001; and the check value
of "123456789". -/
def Obligations.UpdateEqualsBitSerial : Prop :=
  (∀ (acc : Word) (b : Byte),
    crc16Update acc b =
      Nat.iterate (fun t : Word => if t.getLsbD 0 then (t >>> 1) ^^^ 0xA001 else t >>> 1) 8 (acc ^^^ b.setWidth 16)) ∧
  crc16Fold 0 [0x31, 0x32, 0x33, 0x34, 0x35, 0x36, 0x37, 0x38, 0x39] = 0xBB3D

/-- R99, R44: the complement of `a`, low byte first, ends at 0xB001, and is the only pair that does; high byte first it ends at
one of 256 values that depend on `a`; the uncomplemented value low byte first ends at 0. -/
def Obligations.ResidueLaw : Prop :=
  (∀ (a : Word) (c0 c1 : Byte),
    crc16Fold a [c0, c1] = 0xB001 ↔ c0 = lo8 (a ^^^ 0xFFFF) ∧ c1 = hi8 (a ^^^ 0xFFFF)) ∧
  (∀ M : List Byte, crc16Fold 0 (M ++ [lo8 (crc16Fold 0 M ^^^ 0xFFFF), hi8 (crc16Fold 0 M ^^^ 0xFFFF)]) = 0xB001) ∧
  (∃ g : Byte → Word, Function.Injective g ∧
    ∀ a : Word, crc16Fold a [hi8 (a ^^^ 0xFFFF), lo8 (a ^^^ 0xFFFF)] = g (lo8 a ^^^ hi8 a)) ∧
  (∀ a : Word, crc16Fold a [lo8 a, hi8 a] = 0)

/-- R103: linearity, bijectivity in the accumulator, dependence through `c` alone, appending the value itself, zeros. -/
def Obligations.UpdateAlgebra : Prop :=
  (∀ (a1 a2 : Word) (b1 b2 : Byte),
    crc16Update (a1 ^^^ a2) (b1 ^^^ b2) = crc16Update a1 b1 ^^^ crc16Update a2 b2) ∧
  crc16Update 0 0 = 0 ∧
  (∀ (a1 a2 : Word) (l1 l2 : List Byte), l1.length = l2.length →
    crc16Fold (a1 ^^^ a2) (List.zipWith (· ^^^ ·) l1 l2) = crc16Fold a1 l1 ^^^ crc16Fold a2 l2) ∧
  (∀ b : Byte, Function.Bijective fun a : Word => crc16Update a b) ∧
  (∀ (a : Word) (b : Byte), crc16Update a b = crc16Update (a ^^^ b.setWidth 16) 0) ∧
  (∀ a : Word, crc16Update a (lo8 a) = a >>> 8 ∧ crc16Fold a [lo8 a, hi8 a] = 0) ∧
  (∀ n : Nat, crc16Fold 0 (List.replicate n 0) = 0)

/-- R100: every single-bit corruption of a frame that folds to 0xB001 is detected, at any length and position; some corruption
of more bits is not. -/
def Obligations.SingleBitErrorsAreDetected : Prop :=
  (∀ (pre post : List Byte) (b : Byte) (k : Nat), k < 8 →
    crc16Fold 0 (pre ++ [b] ++ post) = 0xB001 →
    crc16Fold 0 (pre ++ [b ^^^ BitVec.twoPow 8 k] ++ post) ≠ 0xB001) ∧
  (∃ l l' : List Byte, l ≠ l' ∧ l.length = l'.length ∧ crc16Fold 0 l = 0xB001 ∧ crc16Fold 0 l' = 0xB001)

/-- R94: `CRC.RESET`, command byte 0x00, completes in every state, `ACC` is 0 and `VALID` 0 after it, no `STATUS` is written, no
transport call is made, and nothing else changes. -/
def Obligations.CrcResetResult : Prop :=
  (∀ s : State, ∃ t, exec .crcReset s = .next t ∧ t.acc = 0 ∧ t.valid = false ∧ t.result = .nothing ∧
    t.busy = false ∧ t.seq = .idle ∧ s.sameBus t ∧ s.sameInputs t ∧ t.status = s.status ∧ t.wstate = s.wstate ∧
    t.rdata = s.rdata ∧ t.rvalid = s.rvalid ∧ t.conf = s.conf ∧ t.present = s.present) ∧
  decode .host [0x00] = .ok .crcReset

/-- R95: `CRC.ACC`, command byte 0x01, completes in every state, folds `ARG_BYTE` into `ACC` and returns the new `ACC`, and
nothing else changes; with the examples of R95. -/
def Obligations.CrcAccResult : Prop :=
  (∀ s : State, ∃ t, exec .crcAcc s = .next t ∧ t.acc = crc16Update s.acc s.argByte ∧ t.result = .acc t.acc ∧
    t.valid = (t.acc == 0xB001) ∧ t.busy = false ∧ t.seq = .idle ∧ s.sameBus t ∧ s.sameInputs t ∧ t.status = s.status ∧
    t.wstate = s.wstate ∧ t.rdata = s.rdata ∧ t.rvalid = s.rvalid ∧ t.conf = s.conf ∧ t.present = s.present) ∧
  decode .host [0x01] = .ok .crcAcc ∧
  crc16Update 0 0x00 = 0 ∧ crc16Update 0 0x01 = 0xC0C1 ∧ crc16Update 0 0xA5 = 0x7BC0 ∧ crc16Update 0x1234 0x56 = 0xE993

/-- R96: `CRC.CHECK`, command byte 0x02, completes in every state, returns whether `ACC` is exactly 0xB001, and writes no
register; 0xFF, 0xFF folded from 0 pass it. -/
def Obligations.CrcCheckResult : Prop :=
  (∀ s : State, ∃ t, exec .crcCheck s = .next t ∧ t.result = .valid (decide (s.acc = 0xB001)) ∧ t.acc = s.acc ∧
    t.busy = false ∧ t.seq = .idle ∧ s.sameBus t ∧ s.sameInputs t ∧ t.status = s.status ∧ t.wstate = s.wstate ∧
    t.rdata = s.rdata ∧ t.rvalid = s.rvalid ∧ t.conf = s.conf ∧ t.present = s.present) ∧
  decode .host [0x02] = .ok .crcCheck ∧ crc16Fold 0 [0xFF, 0xFF] = 0xB001

/-! ### Transport -/

/-- R50: `Xchg(n)` sends `TB[0..n-1]` in order, overwrites those bytes in place with as many received bytes, records both
(R55), and changes no other register of PIOC (R20, R29), nor the result that the last operation left (log entry 12). -/
def Obligations.ExchangeOverwritesInPlace : Prop :=
  ∀ (s : State) (n : Nat), n ≤ 37 → ∃ rx : List Byte, rx.length = n ∧
    (exchange n s).trace = s.trace ++ [.xch (s.tb.toList.take n) rx] ∧
    (exchange n s).tb.toList = rx ++ s.tb.toList.drop n ∧
    s.sameInputs (exchange n s) ∧ (exchange n s).acc = s.acc ∧ (exchange n s).tbLen = s.tbLen ∧
    (exchange n s).seq = s.seq ∧ (exchange n s).busPower = s.busPower ∧ (exchange n s).conf = s.conf ∧
    (exchange n s).present = s.present ∧ (exchange n s).rdata = s.rdata ∧ (exchange n s).rvalid = s.rvalid ∧
    (exchange n s).status = s.status ∧ (exchange n s).wstate = s.wstate ∧ (exchange n s).busy = s.busy ∧
    (exchange n s).result = s.result

/-- R49 to R51, R55: where the state fixes the oracle's answers, the primitives answer exactly them, in order. -/
def Obligations.OracleAnswersInOrder : Prop :=
  ∀ (s : State) (p : Bool) (ps : List Bool) (r rest : List Byte) (c : Byte) (cs : List Byte),
    s.env = none → s.oracle.presence = p :: ps → s.oracle.rx = r ++ rest → s.oracle.confirm = c :: cs → r.length ≤ 37 →
    (busReset s).1 = p ∧ (busReset s).2.oracle = { s.oracle with presence := ps } ∧
    (exchange r.length s).tb.toList = r ++ s.tb.toList.drop r.length ∧
    (exchange r.length s).oracle = { s.oracle with rx := rest } ∧
    (readByte s).conf = c ∧ (readByte s).oracle = { s.oracle with confirm := cs }

/-- R166, R57: an instruction makes at most 11 transport calls, and none if it is a CRC operation; the history of the bus
only grows. -/
def Obligations.AtMostElevenTransportCalls : Prop :=
  ∀ (i : Instr) (s t : State), exec i s = .next t →
    ∃ ev : List Event, t.trace = s.trace ++ ev ∧ ev.length ≤ 11 ∧ (i ∈ crcOps → ev = [])

/-- R166, U12: where the next call on the bus never returns, everything but a CRC operation hangs in that call, with no event
made, `BUSY` as it was and `SEQ` not idle; a CRC operation, which makes no call, still completes. That the hang comes as a fault
with its stuck state, and how the calls are numbered, is the model's choice (DESIGN CHOICE, log entry 13). -/
def Obligations.HungTransportStopsAllButTheCrcEngine : Prop :=
  ∀ (i : Instr) (s : State), s.hangAt = some s.trace.length → s.envOutside = false →
    if i ∈ crcOps then ∃ t, exec i s = .next t
    else ∃ p, exec i s = .fault (.transportHung p) ∧ p.trace = s.trace ∧ p.busy = s.busy ∧ p.seq ≠ .idle

/-! ### Device Selector -/

/-- R105, R107: `SELECT` completes for every oracle; its result is the answer of its bus reset alone; the match frame is sent
iff a device is present; and the rest of its frame. What `TB` holds after the end is the model's choice (log entry 27). -/
def Obligations.SelectResult : Prop :=
  ∀ s : State, (s.oracleAnswers → ∃ t, exec .select s = .next t) ∧
    ∀ t, exec .select s = .next t → ∃ (p : Bool) (rx : List Byte), rx.length = 9 ∧
      p = (busReset s).1 ∧ t.present = p ∧ t.busy = false ∧ t.seq = .idle ∧ s.sameInputs t ∧ t.acc = s.acc ∧ t.wstate = s.wstate ∧
      t.rdata = s.rdata ∧ t.conf = s.conf ∧ t.busPower = s.busPower ∧
      (p = false → t.trace = s.trace ++ [.rst false] ∧ t.status = .deviceAbsent ∧ t.rvalid = false ∧
        t.result = .failure .deviceAbsent ∧ t.tb = s.tb ∧ t.tbLen = s.tbLen) ∧
      (p = true → t.trace = s.trace ++ [.rst true, .xch (0x55 :: s.id.toList) rx] ∧ t.status = .ok ∧
        t.rvalid = s.rvalid ∧ t.result = .success ∧ t.tb.toList = rx ++ s.tb.toList.drop 9 ∧ t.tbLen = 9)

/-- R109, R136: where the presence answer is 0, every operation that selects ends at once with `DeviceAbsent`; nothing follows
the reset on the bus; `ACC`, the power level and `CONF` are as before (and `TB`, the model's choice, log entry 27). -/
def Obligations.AbsentDeviceEndsEverySelectingOperation : Prop :=
  ∀ (i : Instr) (s : State), i ∈ selectingOps → s.oracleAnswers → (busReset s).1 = false →
    ∃ t, exec i s = .next t ∧ t.trace = s.trace ++ [.rst false] ∧ t.status = .deviceAbsent ∧
      t.result = .failure .deviceAbsent ∧ t.present = false ∧ t.acc = s.acc ∧ t.busPower = s.busPower ∧
      t.conf = s.conf ∧ t.rvalid = false ∧ t.rdata = s.rdata ∧ t.tb = s.tb ∧
      t.wstate = (if i = .writePage then .aborted else s.wstate)

/-! ### Page Reader -/

/-- R110, R112, R115: `READ_PAGE` completes for every oracle; its two frames; the 37 folds; `Ok` with the 32 received data
bytes iff `ACC = 0xB001`, else no data; and the rest of its frame. -/
def Obligations.ReadPageResult : Prop :=
  ∀ s : State, (s.oracleAnswers → ∃ t, exec .readPage s = .next t) ∧
    ∀ t, exec .readPage s = .next t → ∃ (p : Bool) (m rx : List Byte), m.length = 9 ∧ rx.length = 37 ∧
      p = (busReset s).1 ∧ t.present = p ∧ t.busy = false ∧ t.seq = .idle ∧ s.sameInputs t ∧ t.wstate = s.wstate ∧ t.conf = s.conf ∧
      t.busPower = s.busPower ∧
      (p = false → t.trace = s.trace ++ [.rst false] ∧ t.acc = s.acc ∧ t.status = .deviceAbsent ∧ t.rvalid = false ∧
        t.rdata = s.rdata ∧ t.result = .failure .deviceAbsent) ∧
      (p = true →
        let A := pageAddr s.argPidx
        t.trace = s.trace ++ selectEvents s m ++ [.xch ([0xA5, lo8 A, hi8 A] ++ List.replicate 34 0xFF) rx] ∧
        t.acc = crc16Fold 0 ([0xA5, lo8 A, hi8 A] ++ rx.drop 3) ∧
        if t.acc = 0xB001 then
          t.status = .ok ∧ t.rvalid = true ∧ t.rdata.toList = (rx.drop 3).take 32 ∧ t.result = .data t.rdata
        else
          t.status = .integrityMismatch ∧ t.rvalid = false ∧ t.rdata = s.rdata ∧ t.result = .failure .integrityMismatch)

/-- R111, R112, R115: `READ_PAGE.C` completes for every oracle, with one exchange of 34 filler bytes and no bus reset; it folds
the 34 received bytes from 0; `Ok` with the first 32 iff `ACC = 0xB001`, else no data; and the rest of its frame. -/
def Obligations.ContinuedReadResult : Prop :=
  ∀ s : State, (s.oracleAnswers → ∃ t, exec .readPageC s = .next t) ∧
    ∀ t, exec .readPageC s = .next t → ∃ rx : List Byte, rx.length = 34 ∧
      t.trace = s.trace ++ [.xch (List.replicate 34 0xFF) rx] ∧ t.acc = crc16Fold 0 rx ∧
      t.present = s.present ∧ t.busy = false ∧ t.seq = .idle ∧ s.sameInputs t ∧ t.wstate = s.wstate ∧
      t.conf = s.conf ∧ t.busPower = s.busPower ∧
      if t.acc = 0xB001 then
        t.status = .ok ∧ t.rvalid = true ∧ t.rdata.toList = rx.take 32 ∧ t.result = .data t.rdata
      else t.status = .integrityMismatch ∧ t.rvalid = false ∧ t.rdata = s.rdata ∧ t.result = .failure .integrityMismatch

/-- R114: two continued reads that differ in `ARG_PIDX` alone have the same outcome in every other respect. -/
def Obligations.ContinuedReadIgnoresThePageIndex : Prop :=
  ∀ (s : State) (i j : Word),
    viewState (fun t => { t with argPidx := j }) (exec .readPageC { s with argPidx := i }) =
      exec .readPageC { s with argPidx := j }

/-! ### Page Writer -/

/-- R120, R121, R131 (2): `WRITE_SCRATCHPAD` completes for every oracle; its frames; 35 folds of sent bytes and 2 of received
ones; `Ok` iff the two CRC bytes are the complement of the accumulator, low byte first; and the rest of its frame. -/
def Obligations.WriteScratchpadResult : Prop :=
  ∀ s : State, (s.oracleAnswers → ∃ t, exec .writeScratchpad s = .next t) ∧
    ∀ t, exec .writeScratchpad s = .next t → ∃ (p : Bool) (m rx : List Byte) (c0 c1 : Byte), m.length = 9 ∧ rx.length = 35 ∧
      p = (busReset s).1 ∧ t.present = p ∧ t.busy = false ∧ t.seq = .idle ∧ s.sameInputs t ∧ t.wstate = s.wstate ∧ t.conf = s.conf ∧
      t.busPower = s.busPower ∧ t.rdata = s.rdata ∧
      (p = false → t.trace = s.trace ++ [.rst false] ∧ t.acc = s.acc ∧ t.status = .deviceAbsent ∧ t.rvalid = false ∧
        t.result = .failure .deviceAbsent) ∧
      (p = true →
        let a35 := scratchAcc s.argAddr s.wdata
        t.trace = s.trace ++ selectEvents s m ++ [.xch (scratchFrame s.argAddr s.wdata) (rx ++ [c0, c1])] ∧
        t.acc = crc16Fold a35 [c0, c1] ∧
        (t.status = .ok ↔ t.acc = 0xB001) ∧
        (t.acc = 0xB001 ↔ c0 = lo8 (a35 ^^^ 0xFFFF) ∧ c1 = hi8 (a35 ^^^ 0xFFFF)) ∧
        if t.acc = 0xB001 then t.rvalid = s.rvalid ∧ t.result = .success
        else t.status = .integrityMismatch ∧ t.rvalid = false ∧ t.result = .failure .integrityMismatch)

/-- R122, R123: `COPY_SCRATCHPAD` completes for every oracle; its seven events after the reset in their order; `CONF` keeps the
byte read and decides the result; `ACC` and `WSTATE` are not touched; and the rest of its frame. -/
def Obligations.CopyScratchpadResult : Prop :=
  ∀ s : State, (s.oracleAnswers → ∃ t, exec .copyScratchpad s = .next t) ∧
    ∀ t, exec .copyScratchpad s = .next t → ∃ (p : Bool) (m r3 r1 : List Byte) (c : Byte),
      m.length = 9 ∧ r3.length = 3 ∧ r1.length = 1 ∧
      p = (busReset s).1 ∧ t.present = p ∧ t.busy = false ∧ t.seq = .idle ∧ s.sameInputs t ∧ t.acc = s.acc ∧ t.wstate = s.wstate ∧
      t.rdata = s.rdata ∧
      (p = false → t.trace = s.trace ++ [.rst false] ∧ t.status = .deviceAbsent ∧ t.conf = s.conf ∧ t.rvalid = false ∧
        t.busPower = s.busPower ∧ t.result = .failure .deviceAbsent) ∧
      (p = true → t.trace = s.trace ++ selectEvents s m ++ copyEvents s.argAddr r3 r1 c ∧ t.conf = c ∧
        t.busPower = .standard ∧
        if c = 0x55 ∨ c = 0xAA then t.status = .ok ∧ t.rvalid = s.rvalid ∧ t.result = .success
        else t.status = .commitAmbiguous ∧ t.rvalid = false ∧ t.result = .failure .commitAmbiguous)

/-- R128: with a device present, `COPY_SCRATCHPAD` is `Ok` iff the byte of its last event, the `RDB`, is 0x55 or 0xAA. -/
def Obligations.CopySucceedsIffToggleByte : Prop :=
  ∀ s t : State, exec .copyScratchpad s = .next t → t.present = true →
    ∃ (before : List Event) (c : Byte), t.trace = before ++ [.rdb c] ∧ (t.status = .ok ↔ c = 0x55 ∨ c = 0xAA)

/-- R124, R125, R127: `WRITE_PAGE` completes for every oracle, along one of five paths, each with its trace, `STATUS`, `WSTATE`,
`ACC`, `CONF` and `PRESENT`; the answers of the two bus resets, the received CRC bytes and the confirmation byte choose the
path; and the rest of its frame. -/
def Obligations.WritePageResult : Prop :=
  ∀ s : State, (s.oracleAnswers → ∃ t, exec .writePage s = .next t) ∧
    ∀ t, exec .writePage s = .next t →
      let A := pageAddr s.argPidx
      let a35 := scratchAcc A s.wdata
      t.busy = false ∧ t.seq = .idle ∧ s.sameInputs t ∧ t.rdata = s.rdata ∧
      (if t.status = .ok then t.rvalid = s.rvalid ∧ t.result = .success else t.rvalid = false ∧ t.result = .failure t.status) ∧
      (((busReset s).1 = false ∧ t.trace = s.trace ++ [.rst false] ∧ t.status = .deviceAbsent ∧ t.wstate = .aborted ∧
          t.acc = s.acc ∧ t.conf = s.conf ∧ t.present = false ∧ t.busPower = s.busPower) ∨
        (busReset s).1 = true ∧ ∃ (m rx : List Byte) (c0 c1 : Byte), m.length = 9 ∧ rx.length = 35 ∧ t.acc = crc16Fold a35 [c0, c1] ∧
          let phase1Events := selectEvents s m ++ [.xch (scratchFrame A s.wdata) (rx ++ [c0, c1])]
          ((t.trace = s.trace ++ phase1Events ∧ t.acc ≠ 0xB001 ∧ t.status = .integrityMismatch ∧ t.wstate = .aborted ∧
              t.conf = s.conf ∧ t.present = true ∧ t.busPower = s.busPower) ∨
            ((busReset (phase1 A s.wdata (setWState .idle s)).2).1 = false ∧
              t.trace = s.trace ++ phase1Events ++ [.rst false] ∧ t.acc = 0xB001 ∧ t.status = .deviceAbsent ∧
              t.wstate = .unknown ∧ t.conf = s.conf ∧ t.present = false ∧ t.busPower = s.busPower) ∨
            (busReset (phase1 A s.wdata (setWState .idle s)).2).1 = true ∧
              ∃ (m2 r3 r1 : List Byte), m2.length = 9 ∧ r3.length = 3 ∧ r1.length = 1 ∧
              t.trace = s.trace ++ phase1Events ++ selectEvents s m2 ++ copyEvents A r3 r1 t.conf ∧ t.acc = 0xB001 ∧
              t.present = true ∧ t.busPower = .standard ∧
              if t.conf = 0x55 ∨ t.conf = 0xAA then t.status = .ok ∧ t.wstate = .committed
              else t.status = .commitAmbiguous ∧ t.wstate = .unknown))

/-- R131 (3), R87: `WRITE_PAGE p, D` has the trace and the result of `WRITE_SCRATCHPAD page_addr(p), D` followed, iff that returned
`Ok`, by `COPY_SCRATCHPAD page_addr(p)`; the write state machine tells the ends apart (R125). That `TB` and `TBLEN` are the
same after the end, too, is the model's (DEDUCED, log entry 27): R23 gives them no meaning then. -/
def Obligations.WritePageIsScratchpadThenCopy : Prop :=
  ∀ s t : State, exec .writePage s = .next t →
    ∃ t1, exec .writeScratchpad { s with argAddr := pageAddr s.argPidx } = .next t1 ∧
      (t1.status ≠ .ok → t.sameOutcome t1 ∧ t.wstate = .aborted) ∧
      (t1.status = .ok → ∃ t2, exec .copyScratchpad t1 = .next t2 ∧ t.sameOutcome t2 ∧
        t.wstate = (if t2.status = .ok then .committed else .unknown))

/-- R126: a `WRITE_PAGE` whose Phase 1 does not return `Ok` ends in `Aborted`, and one that ends in `Aborted` made no transport
call after the reset, or after the match frame and the scratchpad frame: no copy command, no `PWR`, no `SLP`, no `RDB`. -/
def Obligations.AbortedWriteNeverStartsPhase2 : Prop :=
  ∀ s t : State, exec .writePage s = .next t →
    ((phase1 (pageAddr s.argPidx) s.wdata (setWState .idle s)).1 ≠ .ok → t.wstate = .aborted) ∧
    (t.wstate = .aborted →
      t.trace = s.trace ++ [.rst false] ∨
        ∃ m rx : List Byte, m.length = 9 ∧ rx.length = 37 ∧
          t.trace =
            s.trace ++ [.rst true, .xch (0x55 :: s.id.toList) m, .xch (scratchFrame (pageAddr s.argPidx) s.wdata) rx] ∧
          crc16Fold (scratchAcc (pageAddr s.argPidx) s.wdata) (rx.drop 35) ≠ 0xB001)

/-! ### Bus frames -/

/-- R75, R79, R80: each of the frames `W.MATCH`, `W.COPY` and `W.AUTH` completes for every oracle with one exchange of its bytes,
leaves what was received in `TB`, folds nothing, and changes nothing else. -/
def Obligations.UnfoldedFramesResult : Prop :=
  ∀ (i : Instr) (bytes : List Byte) (s : State),
    ((∃ v : Bytes 8, i = .wMatch v ∧ bytes = 0x55 :: v.toList) ∨
      (∃ a : Word, i = .wCopy a ∧ bytes = [0x55, lo8 a, hi8 a]) ∨ (i = .wAuth ∧ bytes = [0x1F])) →
    (s.oracleAnswers → ∃ t, exec i s = .next t) ∧
    ∀ t, exec i s = .next t → ∃ rx : List Byte, rx.length = bytes.length ∧ t.trace = s.trace ++ [.xch bytes rx] ∧
      t.tb.toList = rx ++ s.tb.toList.drop bytes.length ∧ t.tbLen.toNat = bytes.length ∧ t.acc = s.acc ∧
      s.sameInputs t ∧ t.wstate = s.wstate ∧ t.status = s.status ∧ t.rdata = s.rdata ∧ t.rvalid = s.rvalid ∧
      t.conf = s.conf ∧ t.present = s.present ∧ t.busy = s.busy ∧ t.busPower = s.busPower ∧ t.result = s.result

/-- R76 to R78, R121: each of the frames `W.READ`, `W.READC` and `W.WSP` completes for every oracle with one exchange of its
bytes; the bytes PIOC sends as command, address and payload are folded as sent, those in the filler positions as received;
nothing else changes. -/
def Obligations.FoldedFramesResult : Prop :=
  ∀ (i : Instr) (sent filler : List Byte) (s : State),
    ((∃ a : Word, i = .wRead a ∧ sent = [0xA5, lo8 a, hi8 a] ∧ filler = List.replicate 34 0xFF) ∨
      (i = .wReadc ∧ sent = [] ∧ filler = List.replicate 34 0xFF) ∨
      (∃ (a : Word) (d : Bytes 32), i = .wWsp a d ∧ sent = [0x0F, lo8 a, hi8 a] ++ d.toList ∧ filler = [0xFF, 0xFF])) →
    (s.oracleAnswers → ∃ t, exec i s = .next t) ∧
    ∀ t, exec i s = .next t → ∃ rx : List Byte, rx.length = sent.length + filler.length ∧
      t.trace = s.trace ++ [.xch (sent ++ filler) rx] ∧ t.acc = crc16Fold (crc16Fold s.acc sent) (rx.drop sent.length) ∧
      t.tb.toList = rx ++ s.tb.toList.drop (sent.length + filler.length) ∧ t.tbLen.toNat = sent.length + filler.length ∧
      s.sameInputs t ∧ t.wstate = s.wstate ∧ t.status = s.status ∧ t.rdata = s.rdata ∧ t.rvalid = s.rvalid ∧
      t.conf = s.conf ∧ t.present = s.present ∧ t.busy = s.busy ∧ t.busPower = s.busPower ∧ t.result = s.result

/-! ### Rules over all operations -/

/-- R22, R26, R108: no instruction writes the identifier or an operand latch, whatever the oracle returns. -/
def Obligations.IdentifierAndLatchesAreNeverWritten : Prop :=
  ∀ (i : Instr) (s t : State), exec i s = .next t → s.sameInputs t

/-- R139: an operation reports only the failures its row of the table allows, and the code is in `STATUS`; the CRC operations
report none. -/
def Obligations.FailuresAreThoseOfTheTable : Prop :=
  ∀ (i : Instr) (s t : State) (c : Status), i ∈ hostOps → exec i s = .next t → t.result = .failure c →
    mayReport i c ∧ t.status = c

/-- R141, R144, R112: an operation that fails ends with its code in `STATUS`, `RVALID` 0, `RDATA` as before and no data in
its result, idle, and with the power level `standard` if it began so. -/
def Obligations.FailureLeavesNoData : Prop :=
  ∀ (i : Instr) (s t : State), i ∈ hostOps → exec i s = .next t → i ∉ crcOps → t.status ≠ .ok →
    t.result = .failure t.status ∧ t.rvalid = false ∧ t.rdata = s.rdata ∧ t.busy = false ∧ t.seq = .idle ∧
      (s.busPower = .standard → t.busPower = .standard)

/-- R171, R129, R144: from a state with the bus power `standard`, every operation that completes has ended, with the bus power
`standard`. -/
def Obligations.EveryOperationEnds : Prop :=
  ∀ (i : Instr) (s t : State), i ∈ hostOps → s.busPower = .standard → exec i s = .next t → t.ended

/-- R34, R25, R107: the registers that an operation's row of the table leaves empty are unchanged. -/
def Obligations.OperationsWriteOnlyTheirRegisters : Prop :=
  ∀ (i : Instr) (s t : State), i ∈ hostOps → exec i s = .next t →
    (i ∈ [.crcCheck, .select, .copyScratchpad] → t.acc = s.acc) ∧
    (i ∈ crcOps → t.tb = s.tb ∧ t.tbLen = s.tbLen ∧ t.status = s.status ∧ t.rvalid = s.rvalid ∧ t.trace = s.trace) ∧
    (i ∈ [.crcReset, .crcAcc, .crcCheck, .readPageC] → t.present = s.present) ∧
    (i ∉ [.readPage, .readPageC] → t.rdata = s.rdata ∧ (t.rvalid = s.rvalid ∨ t.rvalid = false)) ∧
    (i ∉ [.copyScratchpad, .writePage] → t.conf = s.conf ∧ t.busPower = s.busPower) ∧
    (i ≠ .writePage → t.wstate = s.wstate) ∧
    (i = .writePage → t.wstate = .committed ∨ t.wstate = .aborted ∨ t.wstate = .unknown)

/-- R30, R160: no bus operation depends on the `ACC` that earlier operations left: apart from `ACC` itself its outcome is the
same from any `ACC`. -/
def Obligations.BusOperationsDoNotReadAcc : Prop :=
  ∀ (i : Instr) (s : State) (a : Word), i ∈ hostOps → i ∉ crcOps →
    viewState (fun t => { t with acc := 0 }) (exec i { s with acc := a }) =
      viewState (fun t => { t with acc := 0 }) (exec i s)

/-! ### The machine -/

/-- R33, R155: after reset `SEQ` is idle, `BUSY` 0, `WSTATE` Idle, `RVALID` 0, `TBLEN` 0, and no transport call has been made. -/
def Obligations.ResetLeavesPiocIdle : Prop :=
  State.reset.seq = .idle ∧ State.reset.busy = false ∧ State.reset.wstate = .idle ∧ State.reset.rvalid = false ∧
    State.reset.tbLen = 0 ∧ State.reset.trace = []

/-- R71, R11: where the host presents a command byte of an operation to an idle PIOC, the step runs that operation whole, from
the state with `OPC` and `ARG_CONT` latched and `BUSY` set. -/
def Obligations.StepRunsTheCommandedOperation : Prop :=
  ∀ (s : State) (b : Byte) (rest : List HostMove) (i : Instr),
    s.busy = false → s.inbox = .command b :: rest → decode .host [b] = .ok i →
    step s = exec i { s with inbox := rest, opc := b.extractLsb' 0 4, argCont := b.getLsbD 4, busy := true }

/-- R24, R85: where the sequencer of a busy PIOC stands at the beginning of a frame, the step runs that frame, and then moves on to
the next control position. That one step takes a whole frame, and so passes the positions inside it (`S_RD_XCHG`,
`S_RD_FOLD`, `S_WS_XCHG`, `S_WS_FOLD`), is the model's inference from R11 (DEDUCED, log entry 11). -/
def Obligations.StepRunsTheFrameAtThePosition : Prop :=
  ∀ s t : State, s.busy = true →
    (s.seq = .selMatch → exec (.wMatch s.id) s = .next t → step s = .next (leaveSelector t)) ∧
    (s.seq = .rdHdr → s.argCont = false → exec (.wRead (pageAddr s.argPidx)) s = .next t →
      step s = .next { t with seq := .rdCheck }) ∧
    (s.seq = .rdHdr → s.argCont = true → exec .wReadc s = .next t → step s = .next { t with seq := .rdCheck }) ∧
    (s.seq = .wsBuild → exec (.wWsp (writeAddr s) s.wdata) s = .next t → step s = .next { t with seq := .wsCheck }) ∧
    (s.seq = .cpCmd → exec (.wCopy (writeAddr s)) s = .next t → step s = .next { t with seq := .cpPwrOn }) ∧
    (s.seq = .cpAuth → exec .wAuth s = .next t → step s = .next { t with seq := .cpWait })

/-- R151, R29: a command presented while `BUSY = 1` is refused: not started, whatever the byte. -/
def Obligations.BusyCommandIsRefused : Prop :=
  ∀ (b : Byte) (s : State), s.busy = true → present b s = .refused .busyCommand

/-- R22, R26, R172: the outside's other moves write exactly the identifier or their operand latch; without a move PIOC stays as it
is. -/
def Obligations.OutsideMovesWriteTheirLatchOnly : Prop :=
  ∀ (s : State) (rest : List HostMove), s.busy = false →
    (s.inbox = [] → step s = .next s) ∧
    (∀ v, s.inbox = .provideId v :: rest → step s = .next { s with inbox := rest, id := v }) ∧
    (∀ b, s.inbox = .writeArgByte b :: rest → step s = .next { s with inbox := rest, argByte := b }) ∧
    (∀ i, s.inbox = .writeArgPidx i :: rest → step s = .next { s with inbox := rest, argPidx := i }) ∧
    (∀ a, s.inbox = .writeArgAddr a :: rest → step s = .next { s with inbox := rest, argAddr := a }) ∧
    (∀ d, s.inbox = .writeWdata d :: rest → step s = .next { s with inbox := rest, wdata := d })

/-- The invariant holds at reset (R23, R25, R33, R171). That the bus power is `standard` then, and that no reference
environment stands behind the bus, is the model's choice (DESIGN CHOICE, log entry 8): R155 says that reset does not touch
the power level, and R157 makes the level a premise of the launch. -/
def Obligations.ResetMeetsTheInvariant : Prop := State.reset.Inv

/-- Every step keeps the invariant (R23 to R25, R122, R129, R171): between operations PIOC is idle, the bus power `standard` and the
write state machine not in mid-call; during one the control position and the power level fit the operation; `TBLEN` is at
most 37; the reference device's memory stays canonical. -/
def Obligations.StepKeepsTheInvariant : Prop :=
  ∀ s t : State, s.Inv → step s = .next t → t.Inv

/-- R11: from acceptance on, the sequencer's steps, at most 14, end in exactly the outcome of the operation taken as a whole: the
same trace, the same registers, or the same stop. -/
def Obligations.SequencerStepsMatchTheOperation : Prop :=
  ∀ (s : State) (i : Instr), s.busy = true → s.seq = .idle → runningOp s = some i →
    ∃ n, 1 ≤ n ∧ n ≤ 14 ∧ runSteps n s = exec i s

/-! ### The reference environment (the spec's own decision D21, no part of PIOC) -/

/-- R69 (1): `READ_PAGE` of a page the device has returns `Ok` with that page and leaves the memory unchanged. -/
def Obligations.ReferenceReadReturnsThePage : Prop :=
  ∀ (s : State) (e : Env), s.deviceReady e → s.argPidx.toNat < e.nPages →
    ∃ (t : State) (e' : Env), exec .readPage s = .next t ∧ t.status = .ok ∧ t.rvalid = true ∧ t.env = some e' ∧ e'.mem = e.mem ∧
      t.rdata.toList = (List.range 32).map fun k => e.mem.read (s.argPidx.toNat * 32 + k)

/-- R69 (2): `WRITE_PAGE` of a page the device has returns `Ok`, ends in `Committed`, stores the 32 bytes there and nothing
elsewhere, and a following `READ_PAGE` returns them. -/
def Obligations.ReferenceWriteThenReadReturnsTheData : Prop :=
  ∀ (s : State) (e : Env), s.deviceReady e → s.argPidx.toNat < e.nPages → e.mem.wf = true →
    ∃ (t u : State) (e' : Env), exec .writePage s = .next t ∧ t.status = .ok ∧ t.wstate = .committed ∧ t.env = some e' ∧
      (∀ k : Fin 32, e'.mem.read (s.argPidx.toNat * 32 + k) = s.wdata[k]) ∧
      (∀ a, a < s.argPidx.toNat * 32 ∨ s.argPidx.toNat * 32 + 32 ≤ a → e'.mem.read a = e.mem.read a) ∧
      exec .readPage t = .next u ∧ u.status = .ok ∧ u.rdata = s.wdata

/-- R69 (3): `READ_PAGE p` followed directly by `READ_PAGE.C` returns page `p + 1` where the device has it. -/
def Obligations.ReferenceContinuedReadReturnsTheNextPage : Prop :=
  ∀ (s : State) (e : Env), s.deviceReady e → s.argPidx.toNat + 1 < e.nPages →
    ∃ t u : State, exec .readPage s = .next t ∧ exec .readPageC t = .next u ∧ u.status = .ok ∧ u.rvalid = true ∧
      u.rdata.toList = (List.range 32).map fun k => e.mem.read ((s.argPidx.toNat + 1) * 32 + k)

/-- R69 (4): with an absent device every selecting operation returns `DeviceAbsent` with the trace `[RST(0)]`. -/
def Obligations.ReferenceAbsentDeviceIsReported : Prop :=
  ∀ (i : Instr) (s : State) (e : Env), i ∈ selectingOps → s.bounded = true → s.env = some e → e.present = false →
    e.outside = false →
    ∃ t, exec i s = .next t ∧ t.status = .deviceAbsent ∧ t.trace = s.trace ++ [.rst false]

/-- R61, R62, R68: only `COPY_SCRATCHPAD` and `WRITE_PAGE` change the device's memory, and only at the 32 bytes from the address
they send on; a `WRITE_PAGE` that ends in `Aborted` changes none of it (R124, R126). -/
def Obligations.OnlyACopyChangesTheMemory : Prop :=
  ∀ (i : Instr) (s t : State) (e : Env), s.env = some e → e.mem.wf = true → exec i s = .next t →
    ∃ e' : Env, t.env = some e' ∧
      (i ≠ .copyScratchpad → i ≠ .writePage → e'.mem = e.mem) ∧
      (i = .writePage → t.wstate = .aborted → e'.mem = e.mem) ∧
      (∀ (A : Word) (a : Nat), A = (if i = .writePage then pageAddr s.argPidx else s.argAddr) →
        a < A.toNat ∨ A.toNat + 32 ≤ a → e'.mem.read a = e.mem.read a)

/-- R68, U11: the reference environment commits nothing for an address that was not staged, or with nothing staged; PIOC still sends
the whole copy phase, reads 0xFF and reports `CommitAmbiguous`, and what is staged stays staged. -/
def Obligations.ReferenceCopyNeedsTheStagedAddress : Prop :=
  ∀ (s : State) (e : Env), s.deviceReady e → (∀ sp, e.scratch = some sp → sp.addr ≠ s.argAddr) →
    ∃ (t : State) (e' : Env), exec .copyScratchpad s = .next t ∧ t.status = .commitAmbiguous ∧ t.conf = 0xFF ∧ t.env = some e' ∧
      e'.mem = e.mem ∧ e'.scratch = e.scratch

/-- R65, R66, R67, U2, U3: outside its definition the reference environment refuses: a read past the last page, a continued read
past it (from any position, and right after a read of the last page), and a scratchpad write to a misaligned address. -/
def Obligations.ReferenceEnvironmentRefusesOutsideItsDefinition : Prop :=
  ∀ (s : State) (e : Env), s.deviceReady e →
    (e.nPages * 32 ≤ (pageAddr s.argPidx).toNat + 31 → exec .readPage s = .refused .environmentUndefined) ∧
    (∀ a, e.phase = .reading a → e.nPages * 32 ≤ a + 31 → exec .readPageC s = .refused .environmentUndefined) ∧
    (s.argPidx.toNat + 1 = e.nPages →
      ∃ t, exec .readPage s = .next t ∧ t.status = .ok ∧ exec .readPageC t = .refused .environmentUndefined) ∧
    (s.argAddr.extractLsb' 0 5 ≠ 0 → exec .writeScratchpad s = .refused .environmentUndefined)

/-- R65 to R67: nothing else makes the reference environment refuse. It does so only for a read, or a continued read in the
`Reading` phase, past the last page, and for a scratchpad write to a misaligned address; so `WRITE_PAGE`, `SELECT`,
`COPY_SCRATCHPAD` and every other instruction, and a continued read out of its place (U5), run whatever the phase. That a bus
frame alone out of its place runs (a `W.COPY` after a bus reset, a `W.MATCH` while selected, a `W.READ` while reading) is the
model's choice (DESIGN CHOICE, log entry 7): R64 to R68 give it no answer, and U5 speaks of `READ_PAGE.C` alone. A
`WRITE_PAGE` or `COPY_SCRATCHPAD` past the last page runs by the words of R67, which checks no range, and of R68, where the
copy is then not armed, though R42, U3 and D21 say in summary that out-of-range accesses are refused (log entry 7). -/
def Obligations.ReferenceEnvironmentRefusesNothingElse : Prop :=
  ∀ (i : Instr) (s : State) (e : Env), s.bounded = true → s.env = some e → e.outside = false →
    (∃ t, exec i s = .next t) ∨
      (i = .readPage ∧ e.nPages * 32 ≤ (pageAddr s.argPidx).toNat + 31) ∨
      (∃ a : Word, i = .wRead a ∧ e.nPages * 32 ≤ a.toNat + 31) ∨
      ((i = .readPageC ∨ i = .wReadc) ∧ ∃ a, e.phase = .reading a ∧ e.nPages * 32 ≤ a + 31) ∨
      (i = .writeScratchpad ∧ s.argAddr.extractLsb' 0 5 ≠ 0) ∨
      (∃ (a : Word) (d : Bytes 32), i = .wWsp a d ∧ a.extractLsb' 0 5 ≠ 0)

/-- U5, R64, R111: `READ_PAGE.C` outside a read sequence runs against the reference environment too. With nobody selected the
filler comes back and the CRC fails; after a selection the 34 received bytes are any value, and the result follows from
them. The device keeps its pages and its scratchpad, the model's choice (DESIGN CHOICE, log entry 7). -/
def Obligations.ReferenceContinuedReadOutsideASequenceRuns : Prop :=
  ∀ (s : State) (e : Env), s.bounded = true → s.env = some e → e.outside = false →
    (e.phase = .unselected → ∃ t, exec .readPageC s = .next t ∧ t.status = .integrityMismatch ∧ t.env = some e ∧
      t.trace = s.trace ++ [.xch (List.replicate 34 0xFF) (List.replicate 34 0xFF)]) ∧
    (∀ r rest : List Byte, e.phase = .rom ∨ e.phase = .selected → s.oracle.rx = r ++ rest → r.length = 34 →
      ∃ (t : State) (e' : Env), exec .readPageC s = .next t ∧ t.trace = s.trace ++ [.xch (List.replicate 34 0xFF) r] ∧
        t.acc = crc16Fold 0 r ∧ t.status = (if crc16Fold 0 r = 0xB001 then .ok else .integrityMismatch) ∧
        t.env = some e' ∧ e'.mem = e.mem ∧ e'.scratch = e.scratch)

/-- R64 to R67: what the reference environment answers to a frame, and what becomes of the device: a match frame after a bus
reset; a read at any address inside the device, aligned or not; a continued read; a scratchpad write to a page-aligned
address. The two CRC bytes are the complement, low byte first. -/
def Obligations.ReferenceEnvironmentAnswersFrames : Prop :=
  ∀ (s : State) (e : Env), s.bounded = true → s.env = some e → e.outside = false →
    let withCrc := fun l : List Byte => l ++ [lo8 (crc16Fold 0 l ^^^ 0xFFFF), hi8 (crc16Fold 0 l ^^^ 0xFFFF)]
    let page := fun a : Nat => (List.range 32).map fun k => e.mem.read (a + k)
    (∀ v : Bytes 8, e.phase = .rom → ∃ t, exec (.wMatch v) s = .next t ∧
      t.trace = s.trace ++ [.xch (0x55 :: v.toList) (0x55 :: v.toList)] ∧
      t.env = some { e with phase := if v = e.devId then .selected else .unselected }) ∧
    (∀ a : Word, e.phase = .selected → a.toNat + 31 < e.nPages * 32 → ∃ t, exec (.wRead a) s = .next t ∧
      t.trace = s.trace ++ [.xch ([0xA5, lo8 a, hi8 a] ++ List.replicate 34 0xFF)
        (withCrc ([0xA5, lo8 a, hi8 a] ++ page a.toNat))] ∧
      t.env = some { e with phase := .reading (a.toNat + 32) }) ∧
    (∀ a : Nat, e.phase = .reading a → a + 31 < e.nPages * 32 → ∃ t, exec .wReadc s = .next t ∧
      t.trace = s.trace ++ [.xch (List.replicate 34 0xFF) (withCrc (page a))] ∧
      t.env = some { e with phase := .reading (a + 32) }) ∧
    (∀ (a : Word) (d : Bytes 32), e.phase = .selected → a.extractLsb' 0 5 = 0 → ∃ t, exec (.wWsp a d) s = .next t ∧
      t.trace = s.trace ++ [.xch (scratchFrame a d) (withCrc ([0x0F, lo8 a, hi8 a] ++ d.toList))] ∧
      t.env = some { e with scratch := some { addr := a, data := d }, phase := .unselected })

/-! ### Hardware reset in a run -/

/-- R33, R155: the hardware reset of an idle PIOC leaves the registers that R33 names at their values and every other at what it
held right after the first reset; it makes no transport call and leaves the bus power level, the transport and the device
as they are. That it comes as a move of the outside between two operations, and leaves the unspecified registers at the same
constants each time, is the model's choice (DESIGN CHOICE, log entry 28). -/
def Obligations.HardwareResetOfAnIdlePioc : Prop :=
  ∀ (s : State) (rest : List HostMove), s.busy = false → s.inbox = .hardReset :: rest →
    ∃ t, step s = .next t ∧ t.seq = .idle ∧ t.busy = false ∧ t.wstate = .idle ∧ t.rvalid = false ∧ t.tbLen = 0 ∧
      t.trace = s.trace ∧ t.busPower = s.busPower ∧ t.oracle = s.oracle ∧ t.env = s.env ∧ t.hangAt = s.hangAt ∧
      t.inbox = rest ∧ t.acc = State.reset.acc ∧ t.id = State.reset.id ∧ t.tb = State.reset.tb ∧
      t.opc = State.reset.opc ∧ t.argCont = State.reset.argCont ∧ t.argPidx = State.reset.argPidx ∧
      t.argAddr = State.reset.argAddr ∧ t.argByte = State.reset.argByte ∧ t.wdata = State.reset.wdata ∧
      t.status = State.reset.status ∧ t.rdata = State.reset.rdata ∧ t.conf = State.reset.conf ∧
      t.present = State.reset.present

/-! ### A call that never returns -/

/-- R166, U12: PIOC hangs in the very call that never returns, with `BUSY` still set and `SEQ` not idle; the calls before it,
at most 10, are done and recorded, and neither `STATUS` nor the result is written. A step that hangs leaves `BUSY = 1`.
That the stuck state comes as a fault is the model's form of "no step" (DESIGN CHOICE, log entry 13). How far the hanging call itself
got is open in the spec, and nothing is said here of `TB`, the bus power level or the device. -/
def Obligations.HungOperationStaysBusyAtTheCall : Prop :=
  (∀ (i : Instr) (s p : State), exec i s = .fault (.transportHung p) →
    s.hangAt = some p.trace.length ∧ p.busy = s.busy ∧ p.seq ≠ .idle ∧ s.sameInputs p ∧ p.status = s.status ∧
      p.result = s.result ∧ ∃ ev : List Event, p.trace = s.trace ++ ev ∧ ev.length ≤ 10) ∧
  (∀ s p : State, step s = .fault (.transportHung p) →
    s.hangAt = some p.trace.length ∧ p.busy = true ∧ p.seq ≠ .idle)

/-- R57, R166: which call hangs decides how far an instruction comes. Where it would complete on a bounded transport, it hangs
with exactly its earlier events made if the call that never returns is one of its own, and completes as on the bounded
transport if that call is none of its own: `SELECT` completes though a later call hangs. How the hanging call is named in
the state is the model's (log entry 13). -/
def Obligations.OnlyTheHangingCallStopsAnInstruction : Prop :=
  ∀ (i : Instr) (s t : State), exec i { s with hangAt := none } = .next t →
    (∀ n, s.hangAt = some n → s.trace.length ≤ n → n < t.trace.length →
      ∃ p, exec i s = .fault (.transportHung p) ∧ p.trace = t.trace.take n) ∧
    ((∀ n, s.hangAt = some n → n < s.trace.length ∨ t.trace.length ≤ n) →
      exec i s = .next { t with hangAt := s.hangAt })
end

