-- ==== Sys2Proof/Laws/Memory.lean ====
section
/-! SUPPORT. Every memory operation keeps the canonical form; read after write. -/

namespace Sys2Proof.Machine

namespace Memory

theorem wfFrom_cons {lo k : Nat} {v : Byte} {m : Memory} :
    wfFrom lo ((k, v) :: m) = true ↔ lo ≤ k ∧ v ≠ unlisted ∧ wfFrom (k + 1) m = true := by
  simp [wfFrom, and_assoc]

theorem wfFrom_mono {m : Memory} {lo lo' : Nat} (h : lo' ≤ lo) (hm : wfFrom lo m = true) : wfFrom lo' m = true := by
  cases m with
  | nil => rfl
  | cons c m => exact wfFrom_cons.mpr ⟨h.trans (wfFrom_cons.mp hm).1, (wfFrom_cons.mp hm).2⟩

/-- An address below every cell reads as unlisted. -/
theorem read_of_lt {m : Memory} {lo a : Nat} (hm : wfFrom lo m = true) (ha : a < lo) : m.read a = unlisted := by
  induction m generalizing lo with
  | nil => rfl
  | cons c m ih =>
    obtain ⟨hk, -, hm⟩ := wfFrom_cons.mp hm
    have : c.1 ≠ a := by omega
    simpa [read, this] using ih hm (by omega)

theorem write_wfFrom {m : Memory} {lo a : Nat} (b : Byte) (hm : wfFrom lo m = true) (ha : lo ≤ a) :
    wfFrom lo (m.write a b) = true := by
  induction m generalizing lo with
  | nil => by_cases hb : b = unlisted <;> simp [write, hb, wfFrom, ha]
  | cons c m ih =>
    obtain ⟨k, v⟩ := c
    obtain ⟨hk, hv, hm⟩ := wfFrom_cons.mp hm
    simp only [write]
    split_ifs with h1 h2 h3 h4
    · exact wfFrom_cons.mpr ⟨hk, hv, hm⟩
    · exact wfFrom_cons.mpr ⟨ha, h2, wfFrom_cons.mpr ⟨h1, hv, hm⟩⟩
    · exact wfFrom_mono (by omega) hm
    · subst h3; exact wfFrom_cons.mpr ⟨ha, h4, hm⟩
    · exact wfFrom_cons.mpr ⟨hk, hv, ih hm (by omega)⟩

/-- A write keeps the canonical form. -/
theorem write_wf {m : Memory} (a : Nat) (b : Byte) (hm : m.wf = true) : (m.write a b).wf = true :=
  write_wfFrom b hm (Nat.zero_le a)

/-- A block write keeps the canonical form. -/
theorem writeBlock_wf {m : Memory} (l : List Byte) (a : Nat) (hm : m.wf = true) : (m.writeBlock a l).wf = true := by
  induction l generalizing m a with
  | nil => exact hm
  | cons b l ih => exact ih (a + 1) (write_wf a b hm)

theorem read_write_of_wfFrom {m : Memory} {lo : Nat} (hm : wfFrom lo m = true) (a a' : Nat) (b : Byte) :
    (m.write a b).read a' = if a' = a then b else m.read a' := by
  induction m generalizing lo with
  | nil => by_cases hb : b = unlisted <;> simp [write, read, hb, eq_comm]
  | cons c m ih =>
    obtain ⟨k, v⟩ := c
    obtain ⟨hk, hv, hm⟩ := wfFrom_cons.mp hm
    rcases lt_trichotomy a k with h | h | h
    · have hlow : a' = a → read ((k, v) :: m) a' = unlisted := fun e =>
        read_of_lt (wfFrom_cons.mpr ⟨le_rfl, hv, hm⟩) (e ▸ h)
      by_cases hb : b = unlisted
      · simp only [write, h, hb, if_true]
        split_ifs with e
        · exact hlow e
        · rfl
      · simp [write, h, hb, read, eq_comm]
    · subst h
      by_cases hb : b = unlisted
      · by_cases e : a' = a
        · subst e
          simpa [write, hb] using read_of_lt hm (Nat.lt_succ_self _)
        · simp [write, hb, read, e, Ne.symm e]
      · simp only [write, lt_irrefl, hb, if_true, if_false, read]
        grind
    · have ih := ih hm
      simp only [write, read, not_lt.mpr h.le, h.ne', if_false]
      grind

/-- Reading after a write: the byte written, or what stood there before. -/
theorem read_write {m : Memory} (hm : m.wf = true) (a a' : Nat) (b : Byte) :
    (m.write a b).read a' = if a' = a then b else m.read a' :=
  read_write_of_wfFrom hm a a' b

/-- A block write leaves every address outside the block alone. -/
theorem read_writeBlock_outside {m : Memory} (hm : m.wf = true) (l : List Byte) (a a' : Nat)
    (h : a' < a ∨ a + l.length ≤ a') : (m.writeBlock a l).read a' = m.read a' := by
  induction l generalizing m a with
  | nil => rfl
  | cons b l ih =>
    simp only [List.length_cons] at h
    rw [writeBlock, ih (write_wf a b hm) (a + 1) (by omega), read_write hm, if_neg (by omega)]

/-- A block write leaves its bytes in place. -/
theorem read_writeBlock_inside {m : Memory} (hm : m.wf = true) (l : List Byte) (a k : Nat) (h : k < l.length) :
    (m.writeBlock a l).read (a + k) = l[k] := by
  induction l generalizing m a k with
  | nil => simp at h
  | cons b l ih =>
    cases k with
    | zero =>
      rw [writeBlock, read_writeBlock_outside (write_wf a b hm) l _ _ (by omega), read_write hm]
      simp
    | succ k => simpa [writeBlock, Nat.add_assoc, Nat.add_comm 1 k] using ih (write_wf a b hm) (a + 1) k (by simpa using h)

@[simp] theorem readBlock_length (m : Memory) (a n : Nat) : (m.readBlock a n).length = n := by
  induction n generalizing a with
  | zero => rfl
  | succ n ih => simp [readBlock, ih]

theorem readBlock_getElem (m : Memory) (a n k : Nat) (h : k < (m.readBlock a n).length) :
    (m.readBlock a n)[k] = m.read (a + k) := by
  induction n generalizing a k with
  | zero => simp at h
  | succ n ih =>
    cases k with
    | zero => rfl
    | succ k =>
      have := ih (a + 1) k (by simpa using h)
      simpa [readBlock, Nat.add_assoc, Nat.add_comm 1 k] using this

/-- Reading a block back right after it was written. -/
theorem readBlock_writeBlock {m : Memory} (hm : m.wf = true) (l : List Byte) (a : Nat) :
    (m.writeBlock a l).readBlock a l.length = l := by
  apply List.ext_getElem (by simp)
  intro k h1 h2
  rw [readBlock_getElem, read_writeBlock_inside hm l a k h2]

end Memory

end Sys2Proof.Machine
end

