-- ==== Sys2Proof/Laws/State.lean ====
section
/-! SUPPORT. One lemma per field and per state update of Machine/: what the field holds after it. -/

namespace Sys2Proof.Machine

variable (s : State)

/-! ### setSeq -/

@[simp] theorem setSeq_acc (q : Seq) : (setSeq q s).acc = s.acc := rfl
@[simp] theorem setSeq_id (q : Seq) : (setSeq q s).id = s.id := rfl
@[simp] theorem setSeq_tb (q : Seq) : (setSeq q s).tb = s.tb := rfl
@[simp] theorem setSeq_tbLen (q : Seq) : (setSeq q s).tbLen = s.tbLen := rfl
@[simp] theorem setSeq_seq (q : Seq) : (setSeq q s).seq = q := rfl
@[simp] theorem setSeq_wstate (q : Seq) : (setSeq q s).wstate = s.wstate := rfl
@[simp] theorem setSeq_opc (q : Seq) : (setSeq q s).opc = s.opc := rfl
@[simp] theorem setSeq_argCont (q : Seq) : (setSeq q s).argCont = s.argCont := rfl
@[simp] theorem setSeq_argPidx (q : Seq) : (setSeq q s).argPidx = s.argPidx := rfl
@[simp] theorem setSeq_argAddr (q : Seq) : (setSeq q s).argAddr = s.argAddr := rfl
@[simp] theorem setSeq_argByte (q : Seq) : (setSeq q s).argByte = s.argByte := rfl
@[simp] theorem setSeq_wdata (q : Seq) : (setSeq q s).wdata = s.wdata := rfl
@[simp] theorem setSeq_status (q : Seq) : (setSeq q s).status = s.status := rfl
@[simp] theorem setSeq_rdata (q : Seq) : (setSeq q s).rdata = s.rdata := rfl
@[simp] theorem setSeq_rvalid (q : Seq) : (setSeq q s).rvalid = s.rvalid := rfl
@[simp] theorem setSeq_conf (q : Seq) : (setSeq q s).conf = s.conf := rfl
@[simp] theorem setSeq_present (q : Seq) : (setSeq q s).present = s.present := rfl
@[simp] theorem setSeq_busy (q : Seq) : (setSeq q s).busy = s.busy := rfl
@[simp] theorem setSeq_busPower (q : Seq) : (setSeq q s).busPower = s.busPower := rfl
@[simp] theorem setSeq_trace (q : Seq) : (setSeq q s).trace = s.trace := rfl
@[simp] theorem setSeq_oracle (q : Seq) : (setSeq q s).oracle = s.oracle := rfl
@[simp] theorem setSeq_env (q : Seq) : (setSeq q s).env = s.env := rfl
@[simp] theorem setSeq_hangAt (q : Seq) : (setSeq q s).hangAt = s.hangAt := rfl
@[simp] theorem setSeq_result (q : Seq) : (setSeq q s).result = s.result := rfl
@[simp] theorem setSeq_inbox (q : Seq) : (setSeq q s).inbox = s.inbox := rfl

/-! ### clearAcc -/

@[simp] theorem clearAcc_acc : (clearAcc s).acc = 0 := rfl
@[simp] theorem clearAcc_id : (clearAcc s).id = s.id := rfl
@[simp] theorem clearAcc_tb : (clearAcc s).tb = s.tb := rfl
@[simp] theorem clearAcc_tbLen : (clearAcc s).tbLen = s.tbLen := rfl
@[simp] theorem clearAcc_seq : (clearAcc s).seq = s.seq := rfl
@[simp] theorem clearAcc_wstate : (clearAcc s).wstate = s.wstate := rfl
@[simp] theorem clearAcc_opc : (clearAcc s).opc = s.opc := rfl
@[simp] theorem clearAcc_argCont : (clearAcc s).argCont = s.argCont := rfl
@[simp] theorem clearAcc_argPidx : (clearAcc s).argPidx = s.argPidx := rfl
@[simp] theorem clearAcc_argAddr : (clearAcc s).argAddr = s.argAddr := rfl
@[simp] theorem clearAcc_argByte : (clearAcc s).argByte = s.argByte := rfl
@[simp] theorem clearAcc_wdata : (clearAcc s).wdata = s.wdata := rfl
@[simp] theorem clearAcc_status : (clearAcc s).status = s.status := rfl
@[simp] theorem clearAcc_rdata : (clearAcc s).rdata = s.rdata := rfl
@[simp] theorem clearAcc_rvalid : (clearAcc s).rvalid = s.rvalid := rfl
@[simp] theorem clearAcc_conf : (clearAcc s).conf = s.conf := rfl
@[simp] theorem clearAcc_present : (clearAcc s).present = s.present := rfl
@[simp] theorem clearAcc_busy : (clearAcc s).busy = s.busy := rfl
@[simp] theorem clearAcc_busPower : (clearAcc s).busPower = s.busPower := rfl
@[simp] theorem clearAcc_trace : (clearAcc s).trace = s.trace := rfl
@[simp] theorem clearAcc_oracle : (clearAcc s).oracle = s.oracle := rfl
@[simp] theorem clearAcc_env : (clearAcc s).env = s.env := rfl
@[simp] theorem clearAcc_hangAt : (clearAcc s).hangAt = s.hangAt := rfl
@[simp] theorem clearAcc_result : (clearAcc s).result = s.result := rfl
@[simp] theorem clearAcc_inbox : (clearAcc s).inbox = s.inbox := rfl

/-! ### foldBytes -/

@[simp] theorem foldBytes_acc (l : List Byte) : (foldBytes l s).acc = crc16Fold s.acc l := rfl
@[simp] theorem foldBytes_id (l : List Byte) : (foldBytes l s).id = s.id := rfl
@[simp] theorem foldBytes_tb (l : List Byte) : (foldBytes l s).tb = s.tb := rfl
@[simp] theorem foldBytes_tbLen (l : List Byte) : (foldBytes l s).tbLen = s.tbLen := rfl
@[simp] theorem foldBytes_seq (l : List Byte) : (foldBytes l s).seq = s.seq := rfl
@[simp] theorem foldBytes_wstate (l : List Byte) : (foldBytes l s).wstate = s.wstate := rfl
@[simp] theorem foldBytes_opc (l : List Byte) : (foldBytes l s).opc = s.opc := rfl
@[simp] theorem foldBytes_argCont (l : List Byte) : (foldBytes l s).argCont = s.argCont := rfl
@[simp] theorem foldBytes_argPidx (l : List Byte) : (foldBytes l s).argPidx = s.argPidx := rfl
@[simp] theorem foldBytes_argAddr (l : List Byte) : (foldBytes l s).argAddr = s.argAddr := rfl
@[simp] theorem foldBytes_argByte (l : List Byte) : (foldBytes l s).argByte = s.argByte := rfl
@[simp] theorem foldBytes_wdata (l : List Byte) : (foldBytes l s).wdata = s.wdata := rfl
@[simp] theorem foldBytes_status (l : List Byte) : (foldBytes l s).status = s.status := rfl
@[simp] theorem foldBytes_rdata (l : List Byte) : (foldBytes l s).rdata = s.rdata := rfl
@[simp] theorem foldBytes_rvalid (l : List Byte) : (foldBytes l s).rvalid = s.rvalid := rfl
@[simp] theorem foldBytes_conf (l : List Byte) : (foldBytes l s).conf = s.conf := rfl
@[simp] theorem foldBytes_present (l : List Byte) : (foldBytes l s).present = s.present := rfl
@[simp] theorem foldBytes_busy (l : List Byte) : (foldBytes l s).busy = s.busy := rfl
@[simp] theorem foldBytes_busPower (l : List Byte) : (foldBytes l s).busPower = s.busPower := rfl
@[simp] theorem foldBytes_trace (l : List Byte) : (foldBytes l s).trace = s.trace := rfl
@[simp] theorem foldBytes_oracle (l : List Byte) : (foldBytes l s).oracle = s.oracle := rfl
@[simp] theorem foldBytes_env (l : List Byte) : (foldBytes l s).env = s.env := rfl
@[simp] theorem foldBytes_hangAt (l : List Byte) : (foldBytes l s).hangAt = s.hangAt := rfl
@[simp] theorem foldBytes_result (l : List Byte) : (foldBytes l s).result = s.result := rfl
@[simp] theorem foldBytes_inbox (l : List Byte) : (foldBytes l s).inbox = s.inbox := rfl

/-! ### loadFrame -/

@[simp] theorem loadFrame_acc (l : List Byte) : (loadFrame l s).acc = s.acc := rfl
@[simp] theorem loadFrame_id (l : List Byte) : (loadFrame l s).id = s.id := rfl
@[simp] theorem loadFrame_tb (l : List Byte) : (loadFrame l s).tb = toBytes 37 (l ++ s.tb.toList.drop l.length) := rfl
@[simp] theorem loadFrame_tbLen (l : List Byte) : (loadFrame l s).tbLen = BitVec.ofNat 6 l.length := rfl
@[simp] theorem loadFrame_seq (l : List Byte) : (loadFrame l s).seq = s.seq := rfl
@[simp] theorem loadFrame_wstate (l : List Byte) : (loadFrame l s).wstate = s.wstate := rfl
@[simp] theorem loadFrame_opc (l : List Byte) : (loadFrame l s).opc = s.opc := rfl
@[simp] theorem loadFrame_argCont (l : List Byte) : (loadFrame l s).argCont = s.argCont := rfl
@[simp] theorem loadFrame_argPidx (l : List Byte) : (loadFrame l s).argPidx = s.argPidx := rfl
@[simp] theorem loadFrame_argAddr (l : List Byte) : (loadFrame l s).argAddr = s.argAddr := rfl
@[simp] theorem loadFrame_argByte (l : List Byte) : (loadFrame l s).argByte = s.argByte := rfl
@[simp] theorem loadFrame_wdata (l : List Byte) : (loadFrame l s).wdata = s.wdata := rfl
@[simp] theorem loadFrame_status (l : List Byte) : (loadFrame l s).status = s.status := rfl
@[simp] theorem loadFrame_rdata (l : List Byte) : (loadFrame l s).rdata = s.rdata := rfl
@[simp] theorem loadFrame_rvalid (l : List Byte) : (loadFrame l s).rvalid = s.rvalid := rfl
@[simp] theorem loadFrame_conf (l : List Byte) : (loadFrame l s).conf = s.conf := rfl
@[simp] theorem loadFrame_present (l : List Byte) : (loadFrame l s).present = s.present := rfl
@[simp] theorem loadFrame_busy (l : List Byte) : (loadFrame l s).busy = s.busy := rfl
@[simp] theorem loadFrame_busPower (l : List Byte) : (loadFrame l s).busPower = s.busPower := rfl
@[simp] theorem loadFrame_trace (l : List Byte) : (loadFrame l s).trace = s.trace := rfl
@[simp] theorem loadFrame_oracle (l : List Byte) : (loadFrame l s).oracle = s.oracle := rfl
@[simp] theorem loadFrame_env (l : List Byte) : (loadFrame l s).env = s.env := rfl
@[simp] theorem loadFrame_hangAt (l : List Byte) : (loadFrame l s).hangAt = s.hangAt := rfl
@[simp] theorem loadFrame_result (l : List Byte) : (loadFrame l s).result = s.result := rfl
@[simp] theorem loadFrame_inbox (l : List Byte) : (loadFrame l s).inbox = s.inbox := rfl

/-! ### record -/

@[simp] theorem record_acc (e : Event) : (record e s).acc = s.acc := rfl
@[simp] theorem record_id (e : Event) : (record e s).id = s.id := rfl
@[simp] theorem record_tb (e : Event) : (record e s).tb = s.tb := rfl
@[simp] theorem record_tbLen (e : Event) : (record e s).tbLen = s.tbLen := rfl
@[simp] theorem record_seq (e : Event) : (record e s).seq = s.seq := rfl
@[simp] theorem record_wstate (e : Event) : (record e s).wstate = s.wstate := rfl
@[simp] theorem record_opc (e : Event) : (record e s).opc = s.opc := rfl
@[simp] theorem record_argCont (e : Event) : (record e s).argCont = s.argCont := rfl
@[simp] theorem record_argPidx (e : Event) : (record e s).argPidx = s.argPidx := rfl
@[simp] theorem record_argAddr (e : Event) : (record e s).argAddr = s.argAddr := rfl
@[simp] theorem record_argByte (e : Event) : (record e s).argByte = s.argByte := rfl
@[simp] theorem record_wdata (e : Event) : (record e s).wdata = s.wdata := rfl
@[simp] theorem record_status (e : Event) : (record e s).status = s.status := rfl
@[simp] theorem record_rdata (e : Event) : (record e s).rdata = s.rdata := rfl
@[simp] theorem record_rvalid (e : Event) : (record e s).rvalid = s.rvalid := rfl
@[simp] theorem record_conf (e : Event) : (record e s).conf = s.conf := rfl
@[simp] theorem record_present (e : Event) : (record e s).present = s.present := rfl
@[simp] theorem record_busy (e : Event) : (record e s).busy = s.busy := rfl
@[simp] theorem record_busPower (e : Event) : (record e s).busPower = s.busPower := rfl
@[simp] theorem record_trace (e : Event) : (record e s).trace = s.trace ++ [e] := rfl
@[simp] theorem record_oracle (e : Event) : (record e s).oracle = s.oracle := rfl
@[simp] theorem record_env (e : Event) : (record e s).env = s.env := rfl
@[simp] theorem record_hangAt (e : Event) : (record e s).hangAt = s.hangAt := rfl
@[simp] theorem record_result (e : Event) : (record e s).result = s.result := rfl
@[simp] theorem record_inbox (e : Event) : (record e s).inbox = s.inbox := rfl

/-! ### setPower -/

@[simp] theorem setPower_acc (p : PowerLevel) : (setPower p s).acc = s.acc := rfl
@[simp] theorem setPower_id (p : PowerLevel) : (setPower p s).id = s.id := rfl
@[simp] theorem setPower_tb (p : PowerLevel) : (setPower p s).tb = s.tb := rfl
@[simp] theorem setPower_tbLen (p : PowerLevel) : (setPower p s).tbLen = s.tbLen := rfl
@[simp] theorem setPower_seq (p : PowerLevel) : (setPower p s).seq = s.seq := rfl
@[simp] theorem setPower_wstate (p : PowerLevel) : (setPower p s).wstate = s.wstate := rfl
@[simp] theorem setPower_opc (p : PowerLevel) : (setPower p s).opc = s.opc := rfl
@[simp] theorem setPower_argCont (p : PowerLevel) : (setPower p s).argCont = s.argCont := rfl
@[simp] theorem setPower_argPidx (p : PowerLevel) : (setPower p s).argPidx = s.argPidx := rfl
@[simp] theorem setPower_argAddr (p : PowerLevel) : (setPower p s).argAddr = s.argAddr := rfl
@[simp] theorem setPower_argByte (p : PowerLevel) : (setPower p s).argByte = s.argByte := rfl
@[simp] theorem setPower_wdata (p : PowerLevel) : (setPower p s).wdata = s.wdata := rfl
@[simp] theorem setPower_status (p : PowerLevel) : (setPower p s).status = s.status := rfl
@[simp] theorem setPower_rdata (p : PowerLevel) : (setPower p s).rdata = s.rdata := rfl
@[simp] theorem setPower_rvalid (p : PowerLevel) : (setPower p s).rvalid = s.rvalid := rfl
@[simp] theorem setPower_conf (p : PowerLevel) : (setPower p s).conf = s.conf := rfl
@[simp] theorem setPower_present (p : PowerLevel) : (setPower p s).present = s.present := rfl
@[simp] theorem setPower_busy (p : PowerLevel) : (setPower p s).busy = s.busy := rfl
@[simp] theorem setPower_busPower (p : PowerLevel) : (setPower p s).busPower = p := rfl
@[simp] theorem setPower_trace (p : PowerLevel) : (setPower p s).trace = s.trace ++ [.pwr p] := rfl
@[simp] theorem setPower_oracle (p : PowerLevel) : (setPower p s).oracle = s.oracle := rfl
@[simp] theorem setPower_env (p : PowerLevel) : (setPower p s).env = s.env := rfl
@[simp] theorem setPower_hangAt (p : PowerLevel) : (setPower p s).hangAt = s.hangAt := rfl
@[simp] theorem setPower_result (p : PowerLevel) : (setPower p s).result = s.result := rfl
@[simp] theorem setPower_inbox (p : PowerLevel) : (setPower p s).inbox = s.inbox := rfl

/-! ### settle -/

@[simp] theorem settle_acc : (settle s).acc = s.acc := rfl
@[simp] theorem settle_id : (settle s).id = s.id := rfl
@[simp] theorem settle_tb : (settle s).tb = s.tb := rfl
@[simp] theorem settle_tbLen : (settle s).tbLen = s.tbLen := rfl
@[simp] theorem settle_seq : (settle s).seq = s.seq := rfl
@[simp] theorem settle_wstate : (settle s).wstate = s.wstate := rfl
@[simp] theorem settle_opc : (settle s).opc = s.opc := rfl
@[simp] theorem settle_argCont : (settle s).argCont = s.argCont := rfl
@[simp] theorem settle_argPidx : (settle s).argPidx = s.argPidx := rfl
@[simp] theorem settle_argAddr : (settle s).argAddr = s.argAddr := rfl
@[simp] theorem settle_argByte : (settle s).argByte = s.argByte := rfl
@[simp] theorem settle_wdata : (settle s).wdata = s.wdata := rfl
@[simp] theorem settle_status : (settle s).status = s.status := rfl
@[simp] theorem settle_rdata : (settle s).rdata = s.rdata := rfl
@[simp] theorem settle_rvalid : (settle s).rvalid = s.rvalid := rfl
@[simp] theorem settle_conf : (settle s).conf = s.conf := rfl
@[simp] theorem settle_present : (settle s).present = s.present := rfl
@[simp] theorem settle_busy : (settle s).busy = s.busy := rfl
@[simp] theorem settle_busPower : (settle s).busPower = s.busPower := rfl
@[simp] theorem settle_trace : (settle s).trace = s.trace ++ [.slp Config.tSettle] := rfl
@[simp] theorem settle_oracle : (settle s).oracle = s.oracle := rfl
@[simp] theorem settle_env : (settle s).env = s.env.map (Env.sleep Config.tSettle s.busPower) := rfl
@[simp] theorem settle_hangAt : (settle s).hangAt = s.hangAt := rfl
@[simp] theorem settle_result : (settle s).result = s.result := rfl
@[simp] theorem settle_inbox : (settle s).inbox = s.inbox := rfl

/-! ### setPresent -/

@[simp] theorem setPresent_acc (p : Bool) : (setPresent p s).acc = s.acc := rfl
@[simp] theorem setPresent_id (p : Bool) : (setPresent p s).id = s.id := rfl
@[simp] theorem setPresent_tb (p : Bool) : (setPresent p s).tb = s.tb := rfl
@[simp] theorem setPresent_tbLen (p : Bool) : (setPresent p s).tbLen = s.tbLen := rfl
@[simp] theorem setPresent_seq (p : Bool) : (setPresent p s).seq = s.seq := rfl
@[simp] theorem setPresent_wstate (p : Bool) : (setPresent p s).wstate = s.wstate := rfl
@[simp] theorem setPresent_opc (p : Bool) : (setPresent p s).opc = s.opc := rfl
@[simp] theorem setPresent_argCont (p : Bool) : (setPresent p s).argCont = s.argCont := rfl
@[simp] theorem setPresent_argPidx (p : Bool) : (setPresent p s).argPidx = s.argPidx := rfl
@[simp] theorem setPresent_argAddr (p : Bool) : (setPresent p s).argAddr = s.argAddr := rfl
@[simp] theorem setPresent_argByte (p : Bool) : (setPresent p s).argByte = s.argByte := rfl
@[simp] theorem setPresent_wdata (p : Bool) : (setPresent p s).wdata = s.wdata := rfl
@[simp] theorem setPresent_status (p : Bool) : (setPresent p s).status = s.status := rfl
@[simp] theorem setPresent_rdata (p : Bool) : (setPresent p s).rdata = s.rdata := rfl
@[simp] theorem setPresent_rvalid (p : Bool) : (setPresent p s).rvalid = s.rvalid := rfl
@[simp] theorem setPresent_conf (p : Bool) : (setPresent p s).conf = s.conf := rfl
@[simp] theorem setPresent_present (p : Bool) : (setPresent p s).present = p := rfl
@[simp] theorem setPresent_busy (p : Bool) : (setPresent p s).busy = s.busy := rfl
@[simp] theorem setPresent_busPower (p : Bool) : (setPresent p s).busPower = s.busPower := rfl
@[simp] theorem setPresent_trace (p : Bool) : (setPresent p s).trace = s.trace := rfl
@[simp] theorem setPresent_oracle (p : Bool) : (setPresent p s).oracle = s.oracle := rfl
@[simp] theorem setPresent_env (p : Bool) : (setPresent p s).env = s.env := rfl
@[simp] theorem setPresent_hangAt (p : Bool) : (setPresent p s).hangAt = s.hangAt := rfl
@[simp] theorem setPresent_result (p : Bool) : (setPresent p s).result = s.result := rfl
@[simp] theorem setPresent_inbox (p : Bool) : (setPresent p s).inbox = s.inbox := rfl

/-! ### setWState -/

@[simp] theorem setWState_acc (w : WState) : (setWState w s).acc = s.acc := rfl
@[simp] theorem setWState_id (w : WState) : (setWState w s).id = s.id := rfl
@[simp] theorem setWState_tb (w : WState) : (setWState w s).tb = s.tb := rfl
@[simp] theorem setWState_tbLen (w : WState) : (setWState w s).tbLen = s.tbLen := rfl
@[simp] theorem setWState_seq (w : WState) : (setWState w s).seq = s.seq := rfl
@[simp] theorem setWState_wstate (w : WState) : (setWState w s).wstate = w := rfl
@[simp] theorem setWState_opc (w : WState) : (setWState w s).opc = s.opc := rfl
@[simp] theorem setWState_argCont (w : WState) : (setWState w s).argCont = s.argCont := rfl
@[simp] theorem setWState_argPidx (w : WState) : (setWState w s).argPidx = s.argPidx := rfl
@[simp] theorem setWState_argAddr (w : WState) : (setWState w s).argAddr = s.argAddr := rfl
@[simp] theorem setWState_argByte (w : WState) : (setWState w s).argByte = s.argByte := rfl
@[simp] theorem setWState_wdata (w : WState) : (setWState w s).wdata = s.wdata := rfl
@[simp] theorem setWState_status (w : WState) : (setWState w s).status = s.status := rfl
@[simp] theorem setWState_rdata (w : WState) : (setWState w s).rdata = s.rdata := rfl
@[simp] theorem setWState_rvalid (w : WState) : (setWState w s).rvalid = s.rvalid := rfl
@[simp] theorem setWState_conf (w : WState) : (setWState w s).conf = s.conf := rfl
@[simp] theorem setWState_present (w : WState) : (setWState w s).present = s.present := rfl
@[simp] theorem setWState_busy (w : WState) : (setWState w s).busy = s.busy := rfl
@[simp] theorem setWState_busPower (w : WState) : (setWState w s).busPower = s.busPower := rfl
@[simp] theorem setWState_trace (w : WState) : (setWState w s).trace = s.trace := rfl
@[simp] theorem setWState_oracle (w : WState) : (setWState w s).oracle = s.oracle := rfl
@[simp] theorem setWState_env (w : WState) : (setWState w s).env = s.env := rfl
@[simp] theorem setWState_hangAt (w : WState) : (setWState w s).hangAt = s.hangAt := rfl
@[simp] theorem setWState_result (w : WState) : (setWState w s).result = s.result := rfl
@[simp] theorem setWState_inbox (w : WState) : (setWState w s).inbox = s.inbox := rfl

/-! ### clearRvalid -/

@[simp] theorem clearRvalid_acc : (clearRvalid s).acc = s.acc := rfl
@[simp] theorem clearRvalid_id : (clearRvalid s).id = s.id := rfl
@[simp] theorem clearRvalid_tb : (clearRvalid s).tb = s.tb := rfl
@[simp] theorem clearRvalid_tbLen : (clearRvalid s).tbLen = s.tbLen := rfl
@[simp] theorem clearRvalid_seq : (clearRvalid s).seq = s.seq := rfl
@[simp] theorem clearRvalid_wstate : (clearRvalid s).wstate = s.wstate := rfl
@[simp] theorem clearRvalid_opc : (clearRvalid s).opc = s.opc := rfl
@[simp] theorem clearRvalid_argCont : (clearRvalid s).argCont = s.argCont := rfl
@[simp] theorem clearRvalid_argPidx : (clearRvalid s).argPidx = s.argPidx := rfl
@[simp] theorem clearRvalid_argAddr : (clearRvalid s).argAddr = s.argAddr := rfl
@[simp] theorem clearRvalid_argByte : (clearRvalid s).argByte = s.argByte := rfl
@[simp] theorem clearRvalid_wdata : (clearRvalid s).wdata = s.wdata := rfl
@[simp] theorem clearRvalid_status : (clearRvalid s).status = s.status := rfl
@[simp] theorem clearRvalid_rdata : (clearRvalid s).rdata = s.rdata := rfl
@[simp] theorem clearRvalid_rvalid : (clearRvalid s).rvalid = false := rfl
@[simp] theorem clearRvalid_conf : (clearRvalid s).conf = s.conf := rfl
@[simp] theorem clearRvalid_present : (clearRvalid s).present = s.present := rfl
@[simp] theorem clearRvalid_busy : (clearRvalid s).busy = s.busy := rfl
@[simp] theorem clearRvalid_busPower : (clearRvalid s).busPower = s.busPower := rfl
@[simp] theorem clearRvalid_trace : (clearRvalid s).trace = s.trace := rfl
@[simp] theorem clearRvalid_oracle : (clearRvalid s).oracle = s.oracle := rfl
@[simp] theorem clearRvalid_env : (clearRvalid s).env = s.env := rfl
@[simp] theorem clearRvalid_hangAt : (clearRvalid s).hangAt = s.hangAt := rfl
@[simp] theorem clearRvalid_result : (clearRvalid s).result = s.result := rfl
@[simp] theorem clearRvalid_inbox : (clearRvalid s).inbox = s.inbox := rfl

/-! ### storeData -/

@[simp] theorem storeData_acc (d : Bytes 32) : (storeData d s).acc = s.acc := rfl
@[simp] theorem storeData_id (d : Bytes 32) : (storeData d s).id = s.id := rfl
@[simp] theorem storeData_tb (d : Bytes 32) : (storeData d s).tb = s.tb := rfl
@[simp] theorem storeData_tbLen (d : Bytes 32) : (storeData d s).tbLen = s.tbLen := rfl
@[simp] theorem storeData_seq (d : Bytes 32) : (storeData d s).seq = s.seq := rfl
@[simp] theorem storeData_wstate (d : Bytes 32) : (storeData d s).wstate = s.wstate := rfl
@[simp] theorem storeData_opc (d : Bytes 32) : (storeData d s).opc = s.opc := rfl
@[simp] theorem storeData_argCont (d : Bytes 32) : (storeData d s).argCont = s.argCont := rfl
@[simp] theorem storeData_argPidx (d : Bytes 32) : (storeData d s).argPidx = s.argPidx := rfl
@[simp] theorem storeData_argAddr (d : Bytes 32) : (storeData d s).argAddr = s.argAddr := rfl
@[simp] theorem storeData_argByte (d : Bytes 32) : (storeData d s).argByte = s.argByte := rfl
@[simp] theorem storeData_wdata (d : Bytes 32) : (storeData d s).wdata = s.wdata := rfl
@[simp] theorem storeData_status (d : Bytes 32) : (storeData d s).status = s.status := rfl
@[simp] theorem storeData_rdata (d : Bytes 32) : (storeData d s).rdata = d := rfl
@[simp] theorem storeData_rvalid (d : Bytes 32) : (storeData d s).rvalid = true := rfl
@[simp] theorem storeData_conf (d : Bytes 32) : (storeData d s).conf = s.conf := rfl
@[simp] theorem storeData_present (d : Bytes 32) : (storeData d s).present = s.present := rfl
@[simp] theorem storeData_busy (d : Bytes 32) : (storeData d s).busy = s.busy := rfl
@[simp] theorem storeData_busPower (d : Bytes 32) : (storeData d s).busPower = s.busPower := rfl
@[simp] theorem storeData_trace (d : Bytes 32) : (storeData d s).trace = s.trace := rfl
@[simp] theorem storeData_oracle (d : Bytes 32) : (storeData d s).oracle = s.oracle := rfl
@[simp] theorem storeData_env (d : Bytes 32) : (storeData d s).env = s.env := rfl
@[simp] theorem storeData_hangAt (d : Bytes 32) : (storeData d s).hangAt = s.hangAt := rfl
@[simp] theorem storeData_result (d : Bytes 32) : (storeData d s).result = s.result := rfl
@[simp] theorem storeData_inbox (d : Bytes 32) : (storeData d s).inbox = s.inbox := rfl

/-! ### fail -/

@[simp] theorem fail_acc (c : Status) : (fail c s).acc = s.acc := rfl
@[simp] theorem fail_id (c : Status) : (fail c s).id = s.id := rfl
@[simp] theorem fail_tb (c : Status) : (fail c s).tb = s.tb := rfl
@[simp] theorem fail_tbLen (c : Status) : (fail c s).tbLen = s.tbLen := rfl
@[simp] theorem fail_seq (c : Status) : (fail c s).seq = .idle := rfl
@[simp] theorem fail_wstate (c : Status) : (fail c s).wstate = s.wstate := rfl
@[simp] theorem fail_opc (c : Status) : (fail c s).opc = s.opc := rfl
@[simp] theorem fail_argCont (c : Status) : (fail c s).argCont = s.argCont := rfl
@[simp] theorem fail_argPidx (c : Status) : (fail c s).argPidx = s.argPidx := rfl
@[simp] theorem fail_argAddr (c : Status) : (fail c s).argAddr = s.argAddr := rfl
@[simp] theorem fail_argByte (c : Status) : (fail c s).argByte = s.argByte := rfl
@[simp] theorem fail_wdata (c : Status) : (fail c s).wdata = s.wdata := rfl
@[simp] theorem fail_status (c : Status) : (fail c s).status = c := rfl
@[simp] theorem fail_rdata (c : Status) : (fail c s).rdata = s.rdata := rfl
@[simp] theorem fail_rvalid (c : Status) : (fail c s).rvalid = false := rfl
@[simp] theorem fail_conf (c : Status) : (fail c s).conf = s.conf := rfl
@[simp] theorem fail_present (c : Status) : (fail c s).present = s.present := rfl
@[simp] theorem fail_busy (c : Status) : (fail c s).busy = false := rfl
@[simp] theorem fail_busPower (c : Status) : (fail c s).busPower = s.busPower := rfl
@[simp] theorem fail_trace (c : Status) : (fail c s).trace = s.trace := rfl
@[simp] theorem fail_oracle (c : Status) : (fail c s).oracle = s.oracle := rfl
@[simp] theorem fail_env (c : Status) : (fail c s).env = s.env := rfl
@[simp] theorem fail_hangAt (c : Status) : (fail c s).hangAt = s.hangAt := rfl
@[simp] theorem fail_result (c : Status) : (fail c s).result = .failure c := rfl
@[simp] theorem fail_inbox (c : Status) : (fail c s).inbox = s.inbox := rfl

/-! ### done -/

@[simp] theorem done_acc (r : HostResult) : (done r s).acc = s.acc := rfl
@[simp] theorem done_id (r : HostResult) : (done r s).id = s.id := rfl
@[simp] theorem done_tb (r : HostResult) : (done r s).tb = s.tb := rfl
@[simp] theorem done_tbLen (r : HostResult) : (done r s).tbLen = s.tbLen := rfl
@[simp] theorem done_seq (r : HostResult) : (done r s).seq = .idle := rfl
@[simp] theorem done_wstate (r : HostResult) : (done r s).wstate = s.wstate := rfl
@[simp] theorem done_opc (r : HostResult) : (done r s).opc = s.opc := rfl
@[simp] theorem done_argCont (r : HostResult) : (done r s).argCont = s.argCont := rfl
@[simp] theorem done_argPidx (r : HostResult) : (done r s).argPidx = s.argPidx := rfl
@[simp] theorem done_argAddr (r : HostResult) : (done r s).argAddr = s.argAddr := rfl
@[simp] theorem done_argByte (r : HostResult) : (done r s).argByte = s.argByte := rfl
@[simp] theorem done_wdata (r : HostResult) : (done r s).wdata = s.wdata := rfl
@[simp] theorem done_status (r : HostResult) : (done r s).status = .ok := rfl
@[simp] theorem done_rdata (r : HostResult) : (done r s).rdata = s.rdata := rfl
@[simp] theorem done_rvalid (r : HostResult) : (done r s).rvalid = s.rvalid := rfl
@[simp] theorem done_conf (r : HostResult) : (done r s).conf = s.conf := rfl
@[simp] theorem done_present (r : HostResult) : (done r s).present = s.present := rfl
@[simp] theorem done_busy (r : HostResult) : (done r s).busy = false := rfl
@[simp] theorem done_busPower (r : HostResult) : (done r s).busPower = s.busPower := rfl
@[simp] theorem done_trace (r : HostResult) : (done r s).trace = s.trace := rfl
@[simp] theorem done_oracle (r : HostResult) : (done r s).oracle = s.oracle := rfl
@[simp] theorem done_env (r : HostResult) : (done r s).env = s.env := rfl
@[simp] theorem done_hangAt (r : HostResult) : (done r s).hangAt = s.hangAt := rfl
@[simp] theorem done_result (r : HostResult) : (done r s).result = r := rfl
@[simp] theorem done_inbox (r : HostResult) : (done r s).inbox = s.inbox := rfl

/-! ### endCrc -/

@[simp] theorem endCrc_acc (r : HostResult) : (endCrc r s).acc = s.acc := rfl
@[simp] theorem endCrc_id (r : HostResult) : (endCrc r s).id = s.id := rfl
@[simp] theorem endCrc_tb (r : HostResult) : (endCrc r s).tb = s.tb := rfl
@[simp] theorem endCrc_tbLen (r : HostResult) : (endCrc r s).tbLen = s.tbLen := rfl
@[simp] theorem endCrc_seq (r : HostResult) : (endCrc r s).seq = .idle := rfl
@[simp] theorem endCrc_wstate (r : HostResult) : (endCrc r s).wstate = s.wstate := rfl
@[simp] theorem endCrc_opc (r : HostResult) : (endCrc r s).opc = s.opc := rfl
@[simp] theorem endCrc_argCont (r : HostResult) : (endCrc r s).argCont = s.argCont := rfl
@[simp] theorem endCrc_argPidx (r : HostResult) : (endCrc r s).argPidx = s.argPidx := rfl
@[simp] theorem endCrc_argAddr (r : HostResult) : (endCrc r s).argAddr = s.argAddr := rfl
@[simp] theorem endCrc_argByte (r : HostResult) : (endCrc r s).argByte = s.argByte := rfl
@[simp] theorem endCrc_wdata (r : HostResult) : (endCrc r s).wdata = s.wdata := rfl
@[simp] theorem endCrc_status (r : HostResult) : (endCrc r s).status = s.status := rfl
@[simp] theorem endCrc_rdata (r : HostResult) : (endCrc r s).rdata = s.rdata := rfl
@[simp] theorem endCrc_rvalid (r : HostResult) : (endCrc r s).rvalid = s.rvalid := rfl
@[simp] theorem endCrc_conf (r : HostResult) : (endCrc r s).conf = s.conf := rfl
@[simp] theorem endCrc_present (r : HostResult) : (endCrc r s).present = s.present := rfl
@[simp] theorem endCrc_busy (r : HostResult) : (endCrc r s).busy = false := rfl
@[simp] theorem endCrc_busPower (r : HostResult) : (endCrc r s).busPower = s.busPower := rfl
@[simp] theorem endCrc_trace (r : HostResult) : (endCrc r s).trace = s.trace := rfl
@[simp] theorem endCrc_oracle (r : HostResult) : (endCrc r s).oracle = s.oracle := rfl
@[simp] theorem endCrc_env (r : HostResult) : (endCrc r s).env = s.env := rfl
@[simp] theorem endCrc_hangAt (r : HostResult) : (endCrc r s).hangAt = s.hangAt := rfl
@[simp] theorem endCrc_result (r : HostResult) : (endCrc r s).result = r := rfl
@[simp] theorem endCrc_inbox (r : HostResult) : (endCrc r s).inbox = s.inbox := rfl

/-! ### accept -/

@[simp] theorem accept_acc (b : Byte) : (accept b s).acc = s.acc := rfl
@[simp] theorem accept_id (b : Byte) : (accept b s).id = s.id := rfl
@[simp] theorem accept_tb (b : Byte) : (accept b s).tb = s.tb := rfl
@[simp] theorem accept_tbLen (b : Byte) : (accept b s).tbLen = s.tbLen := rfl
@[simp] theorem accept_seq (b : Byte) : (accept b s).seq = s.seq := rfl
@[simp] theorem accept_wstate (b : Byte) : (accept b s).wstate = s.wstate := rfl
@[simp] theorem accept_opc (b : Byte) : (accept b s).opc = b.extractLsb' 0 4 := rfl
@[simp] theorem accept_argCont (b : Byte) : (accept b s).argCont = b.getLsbD 4 := rfl
@[simp] theorem accept_argPidx (b : Byte) : (accept b s).argPidx = s.argPidx := rfl
@[simp] theorem accept_argAddr (b : Byte) : (accept b s).argAddr = s.argAddr := rfl
@[simp] theorem accept_argByte (b : Byte) : (accept b s).argByte = s.argByte := rfl
@[simp] theorem accept_wdata (b : Byte) : (accept b s).wdata = s.wdata := rfl
@[simp] theorem accept_status (b : Byte) : (accept b s).status = s.status := rfl
@[simp] theorem accept_rdata (b : Byte) : (accept b s).rdata = s.rdata := rfl
@[simp] theorem accept_rvalid (b : Byte) : (accept b s).rvalid = s.rvalid := rfl
@[simp] theorem accept_conf (b : Byte) : (accept b s).conf = s.conf := rfl
@[simp] theorem accept_present (b : Byte) : (accept b s).present = s.present := rfl
@[simp] theorem accept_busy (b : Byte) : (accept b s).busy = true := rfl
@[simp] theorem accept_busPower (b : Byte) : (accept b s).busPower = s.busPower := rfl
@[simp] theorem accept_trace (b : Byte) : (accept b s).trace = s.trace := rfl
@[simp] theorem accept_oracle (b : Byte) : (accept b s).oracle = s.oracle := rfl
@[simp] theorem accept_env (b : Byte) : (accept b s).env = s.env := rfl
@[simp] theorem accept_hangAt (b : Byte) : (accept b s).hangAt = s.hangAt := rfl
@[simp] theorem accept_result (b : Byte) : (accept b s).result = s.result := rfl
@[simp] theorem accept_inbox (b : Byte) : (accept b s).inbox = s.inbox := rfl

/-! ### enterRead -/

@[simp] theorem enterRead_acc : (enterRead s).acc = 0 := rfl
@[simp] theorem enterRead_id : (enterRead s).id = s.id := rfl
@[simp] theorem enterRead_tb : (enterRead s).tb = s.tb := rfl
@[simp] theorem enterRead_tbLen : (enterRead s).tbLen = s.tbLen := rfl
@[simp] theorem enterRead_seq : (enterRead s).seq = .rdHdr := rfl
@[simp] theorem enterRead_wstate : (enterRead s).wstate = s.wstate := rfl
@[simp] theorem enterRead_opc : (enterRead s).opc = s.opc := rfl
@[simp] theorem enterRead_argCont : (enterRead s).argCont = s.argCont := rfl
@[simp] theorem enterRead_argPidx : (enterRead s).argPidx = s.argPidx := rfl
@[simp] theorem enterRead_argAddr : (enterRead s).argAddr = s.argAddr := rfl
@[simp] theorem enterRead_argByte : (enterRead s).argByte = s.argByte := rfl
@[simp] theorem enterRead_wdata : (enterRead s).wdata = s.wdata := rfl
@[simp] theorem enterRead_status : (enterRead s).status = s.status := rfl
@[simp] theorem enterRead_rdata : (enterRead s).rdata = s.rdata := rfl
@[simp] theorem enterRead_rvalid : (enterRead s).rvalid = s.rvalid := rfl
@[simp] theorem enterRead_conf : (enterRead s).conf = s.conf := rfl
@[simp] theorem enterRead_present : (enterRead s).present = s.present := rfl
@[simp] theorem enterRead_busy : (enterRead s).busy = s.busy := rfl
@[simp] theorem enterRead_busPower : (enterRead s).busPower = s.busPower := rfl
@[simp] theorem enterRead_trace : (enterRead s).trace = s.trace := rfl
@[simp] theorem enterRead_oracle : (enterRead s).oracle = s.oracle := rfl
@[simp] theorem enterRead_env : (enterRead s).env = s.env := rfl
@[simp] theorem enterRead_hangAt : (enterRead s).hangAt = s.hangAt := rfl
@[simp] theorem enterRead_result : (enterRead s).result = s.result := rfl
@[simp] theorem enterRead_inbox : (enterRead s).inbox = s.inbox := rfl

/-! ### enterScratch -/

@[simp] theorem enterScratch_acc : (enterScratch s).acc = 0 := rfl
@[simp] theorem enterScratch_id : (enterScratch s).id = s.id := rfl
@[simp] theorem enterScratch_tb : (enterScratch s).tb = s.tb := rfl
@[simp] theorem enterScratch_tbLen : (enterScratch s).tbLen = s.tbLen := rfl
@[simp] theorem enterScratch_seq : (enterScratch s).seq = .wsBuild := rfl
@[simp] theorem enterScratch_wstate : (enterScratch s).wstate = s.wstate := rfl
@[simp] theorem enterScratch_opc : (enterScratch s).opc = s.opc := rfl
@[simp] theorem enterScratch_argCont : (enterScratch s).argCont = s.argCont := rfl
@[simp] theorem enterScratch_argPidx : (enterScratch s).argPidx = s.argPidx := rfl
@[simp] theorem enterScratch_argAddr : (enterScratch s).argAddr = s.argAddr := rfl
@[simp] theorem enterScratch_argByte : (enterScratch s).argByte = s.argByte := rfl
@[simp] theorem enterScratch_wdata : (enterScratch s).wdata = s.wdata := rfl
@[simp] theorem enterScratch_status : (enterScratch s).status = s.status := rfl
@[simp] theorem enterScratch_rdata : (enterScratch s).rdata = s.rdata := rfl
@[simp] theorem enterScratch_rvalid : (enterScratch s).rvalid = s.rvalid := rfl
@[simp] theorem enterScratch_conf : (enterScratch s).conf = s.conf := rfl
@[simp] theorem enterScratch_present : (enterScratch s).present = s.present := rfl
@[simp] theorem enterScratch_busy : (enterScratch s).busy = s.busy := rfl
@[simp] theorem enterScratch_busPower : (enterScratch s).busPower = s.busPower := rfl
@[simp] theorem enterScratch_trace : (enterScratch s).trace = s.trace := rfl
@[simp] theorem enterScratch_oracle : (enterScratch s).oracle = s.oracle := rfl
@[simp] theorem enterScratch_env : (enterScratch s).env = s.env := rfl
@[simp] theorem enterScratch_hangAt : (enterScratch s).hangAt = s.hangAt := rfl
@[simp] theorem enterScratch_result : (enterScratch s).result = s.result := rfl
@[simp] theorem enterScratch_inbox : (enterScratch s).inbox = s.inbox := rfl

/-! ### resetRegisters (R155) -/

@[simp] theorem resetRegisters_acc : (resetRegisters s).acc = State.reset.acc := rfl
@[simp] theorem resetRegisters_id : (resetRegisters s).id = State.reset.id := rfl
@[simp] theorem resetRegisters_tb : (resetRegisters s).tb = State.reset.tb := rfl
@[simp] theorem resetRegisters_tbLen : (resetRegisters s).tbLen = 0 := rfl
@[simp] theorem resetRegisters_seq : (resetRegisters s).seq = .idle := rfl
@[simp] theorem resetRegisters_wstate : (resetRegisters s).wstate = .idle := rfl
@[simp] theorem resetRegisters_opc : (resetRegisters s).opc = State.reset.opc := rfl
@[simp] theorem resetRegisters_argCont : (resetRegisters s).argCont = State.reset.argCont := rfl
@[simp] theorem resetRegisters_argPidx : (resetRegisters s).argPidx = State.reset.argPidx := rfl
@[simp] theorem resetRegisters_argAddr : (resetRegisters s).argAddr = State.reset.argAddr := rfl
@[simp] theorem resetRegisters_argByte : (resetRegisters s).argByte = State.reset.argByte := rfl
@[simp] theorem resetRegisters_wdata : (resetRegisters s).wdata = State.reset.wdata := rfl
@[simp] theorem resetRegisters_status : (resetRegisters s).status = State.reset.status := rfl
@[simp] theorem resetRegisters_rdata : (resetRegisters s).rdata = State.reset.rdata := rfl
@[simp] theorem resetRegisters_rvalid : (resetRegisters s).rvalid = false := rfl
@[simp] theorem resetRegisters_conf : (resetRegisters s).conf = State.reset.conf := rfl
@[simp] theorem resetRegisters_present : (resetRegisters s).present = State.reset.present := rfl
@[simp] theorem resetRegisters_busy : (resetRegisters s).busy = false := rfl
@[simp] theorem resetRegisters_busPower : (resetRegisters s).busPower = s.busPower := rfl
@[simp] theorem resetRegisters_trace : (resetRegisters s).trace = s.trace := rfl
@[simp] theorem resetRegisters_oracle : (resetRegisters s).oracle = s.oracle := rfl
@[simp] theorem resetRegisters_env : (resetRegisters s).env = s.env := rfl
@[simp] theorem resetRegisters_hangAt : (resetRegisters s).hangAt = s.hangAt := rfl
@[simp] theorem resetRegisters_result : (resetRegisters s).result = .nothing := rfl
@[simp] theorem resetRegisters_inbox : (resetRegisters s).inbox = s.inbox := rfl

end Sys2Proof.Machine
end

