-- ==== Sys2Proof/Laws/Wire.lean ====
section
/-! SUPPORT. Fixed-length arrays and lists: every use of toBytes passes at least as many bytes as the array has. -/

namespace Sys2Proof.Machine

theorem toBytes_toList (n : Nat) (l : List Byte) :
    (toBytes n l).toList = (l ++ List.replicate n 0).take n := by
  simp [toBytes, Vector.toList]

/-- With at least `n` bytes, no filling up happens. -/
theorem toBytes_toList_of_le {n : Nat} {l : List Byte} (h : n ≤ l.length) :
    (toBytes n l).toList = l.take n := by
  rw [toBytes_toList, List.take_append_of_le_length h]

theorem toBytes_toList_of_eq {n : Nat} {l : List Byte} (h : l.length = n) : (toBytes n l).toList = l := by
  rw [toBytes_toList_of_le h.ge, ← h, List.take_length]

theorem bytes_ext {n : Nat} {v w : Bytes n} (h : v.toList = w.toList) : v = w := Vector.toList_inj.mp h

/-- An array is the array of its own bytes, whatever follows them. -/
theorem toBytes_append {n : Nat} (v : Bytes n) (l : List Byte) : toBytes n (v.toList ++ l) = v := by
  apply bytes_ext
  rw [toBytes_toList_of_le (by simp), List.take_append_of_le_length (by simp)]
  simp

@[simp] theorem readFiller_length : readFiller.length = 34 := by simp [readFiller]

/-- Splitting an address into bytes and putting them together again, low byte first (R43). -/
@[simp] theorem ofLoHi_lo8_hi8 (v : Word) : ofLoHi (lo8 v) (hi8 v) = v := by
  apply BitVec.eq_of_getLsbD_eq
  intro i hi
  simp only [ofLoHi, lo8, hi8, BitVec.getLsbD_append, BitVec.getLsbD_extractLsb']
  grind

@[simp] theorem lo8_ofLoHi (lo hi : Byte) : lo8 (ofLoHi lo hi) = lo := by
  apply BitVec.eq_of_getLsbD_eq
  intro i hi
  simp only [ofLoHi, lo8, BitVec.getLsbD_append, BitVec.getLsbD_extractLsb']
  grind

@[simp] theorem hi8_ofLoHi (lo hi : Byte) : hi8 (ofLoHi lo hi) = hi := by
  apply BitVec.eq_of_getLsbD_eq
  intro i hi
  simp only [ofLoHi, hi8, BitVec.getLsbD_append, BitVec.getLsbD_extractLsb']
  grind

end Sys2Proof.Machine
end

