-- ==== Sys2Proof/Laws/Transport.lean ====
section
/-! SUPPORT. What the transport primitives and the frames leave unchanged, one lemma per field, and what they
change. -/

namespace Sys2Proof.Machine

variable (s : State)

/-! ### Lengths of the answers -/

@[simp] theorem takeBytes_length (n : Nat) (o : Oracle) : (o.takeBytes n).1.length = n := by
  induction n generalizing o with
  | zero => rfl
  | succ n ih => simp [Oracle.takeBytes, ih]

/-- Bytes that the state fixes are the bytes received (R50, R55). -/
theorem takeBytes_script (r rest : List Byte) (o : Oracle) (h : o.rx = r ++ rest) :
    o.takeBytes r.length = (r, { o with rx := rest }) := by
  induction r generalizing o with
  | nil => subst h; rfl
  | cons b r ih =>
    have h' : o.takeByte = (b, { o with rx := r ++ rest }) := by simp [Oracle.takeByte, h]
    simp [Oracle.takeBytes, h', ih]

@[simp] theorem crcReply_length (a : Word) : (crcReply a).length = 2 := rfl

@[simp] theorem encode_wMatch_length (v : Bytes 8) : (encode (.wMatch v)).length = 9 := by simp [encode]
@[simp] theorem encode_wRead_length (a : Word) : (encode (.wRead a)).length = 37 := by simp [encode]
@[simp] theorem encode_wReadc_length : (encode .wReadc).length = 34 := by simp [encode]
@[simp] theorem encode_wWsp_length (a : Word) (d : Bytes 32) : (encode (.wWsp a d)).length = 37 := by simp [encode]
@[simp] theorem encode_wCopy_length (a : Word) : (encode (.wCopy a)).length = 3 := rfl
@[simp] theorem encode_wAuth_length : (encode .wAuth).length = 1 := rfl

/-- A frame the decoder reads as a read is 37 bytes long (R76, R86). -/
theorem length_of_decode_wmem {tx : List Byte} {i : Instr} (h : decode .wmem tx = .ok i) :
    tx.length = (encode i).length := by
  simp only [decode] at h
  unfold decodeMemFrame at h
  split at h
  · split_ifs at h <;> simp_all [encode] <;> (cases h; simp_all)
  · cases h

/-- The one read frame that the decoder names and does not accept is as long (R76, R86). -/
theorem length_of_misalignedRead {tx : List Byte} (h : decode .wmem tx = .error .misalignedRead) : tx.length = 37 := by
  simp only [decode] at h
  unfold decodeMemFrame at h
  split at h
  · split_ifs at h <;> simp_all
  · cases h

/-- A frame that a selected device sees is as long as its encoding (R65, R67, R68). -/
theorem length_of_deviceFrame {tx : List Byte} {i : Instr} (h : deviceFrame tx = some i) :
    tx.length = (encode i).length := by
  unfold deviceFrame at h
  split at h
  · rename_i hd
    cases h
    exact length_of_decode_wmem hd
  · rename_i hd
    cases h
    simp [length_of_misalignedRead hd]
  · cases h

/-- The read frame of any address is seen as that read (R65). -/
theorem deviceFrame_wRead (a : Word) : deviceFrame (encode (.wRead a)) = some (.wRead a) := by
  have hd : decode .wmem (encode (.wRead a)) =
      if a.extractLsb' 0 5 ≠ 0 then .error .misalignedRead else .ok (.wRead a) := by
    simp [decode, encode, decodeMemFrame, readFiller, ofLoHi_lo8_hi8]
  unfold deviceFrame
  rw [hd]
  split_ifs <;> simp [encode, ofLoHi_lo8_hi8]

theorem length_of_decode_wcont {tx : List Byte} {i : Instr} (h : decode .wcont tx = .ok i) :
    tx.length = 34 := by
  simp only [decode, decodeContFrame] at h
  split_ifs at h with h1
  simpa using h1

/-- Where the reference environment has an answer, it has as many bytes as were sent (R50). -/
theorem env_exchange_length {tx rx : List Byte} {level : PowerLevel} {e : Env} (h : (e.exchange tx level).1 = some rx) :
    rx.length = tx.length := by
  revert h
  unfold Env.exchange
  split
  · simp +contextual
  · unfold Env.matchFrame
    split <;> simp +contextual [Env.strayFrame]
  · unfold Env.selectedFrame
    split
    · rename_i h
      have := length_of_deviceFrame h
      unfold Env.readFrame
      split <;> simp +contextual [Env.leave, eq_comm, this]
    · rename_i h
      have := length_of_deviceFrame h
      unfold Env.scratchFrame
      split <;> simp +contextual [Env.leave, eq_comm, this]
    · simp +contextual
    · split <;> simp +contextual [Env.strayFrame]
  · unfold Env.contFrame
    split
    · rename_i h
      have := length_of_decode_wcont h
      split <;> simp +contextual [Env.leave, eq_comm, this]
    · simp [Env.strayFrame]
  · simp [Env.strayFrame]

@[simp] theorem received_length (tx : List Byte) : (received tx s).length = tx.length := by
  unfold received
  split
  · simp
  · rename_i e _
    cases h : (e.exchange tx s.busPower).1 with
    | none => simp
    | some rx => simpa using env_exchange_length h

/-! ### Xchg -/

theorem exchange_trace (n : Nat) :
    (exchange n s).trace = s.trace ++ [.xch (s.tb.toList.take n) (received (s.tb.toList.take n) s)] := by
  simp only [exchange, afterExchange, record_trace]
  split <;> rfl

theorem exchange_tb (n : Nat) :
    (exchange n s).tb = toBytes 37 (received (s.tb.toList.take n) s ++ s.tb.toList.drop n) := by
  simp [exchange]

/-- What an `Xchg` does to the reference environment (R64 to R68). -/
theorem exchange_env (n : Nat) :
    (exchange n s).env = s.env.map fun e => (e.exchange (s.tb.toList.take n) s.busPower).2 := by
  simp only [exchange, afterExchange, record]; split <;> simp_all

/-- Without a reference environment, an `Xchg` takes its bytes from the oracle (R55). -/
theorem exchange_oracle_of_none (n : Nat) (h : s.env = none) :
    (exchange n s).oracle = (s.oracle.takeBytes (s.tb.toList.take n).length).2 := by
  simp [exchange, afterExchange, h, record]

/-- With a reference environment, an `Xchg` takes from the oracle only what the environment does not answer. -/
theorem exchange_oracle_of_some (n : Nat) {e : Env} (h : s.env = some e) :
    (exchange n s).oracle =
      if (e.exchange (s.tb.toList.take n) s.busPower).1.isSome then s.oracle
      else (s.oracle.takeBytes (s.tb.toList.take n).length).2 := by
  simp only [exchange, afterExchange, h, record]

theorem received_of_none (tx : List Byte) (h : s.env = none) : received tx s = (s.oracle.takeBytes tx.length).1 := by
  simp [received, h]

theorem received_of_some (tx : List Byte) {e : Env} (h : s.env = some e) :
    received tx s = (e.exchange tx s.busPower).1.getD (s.oracle.takeBytes tx.length).1 := by
  simp [received, h]

/-- After `Xchg(n)`, `TB[0..n-1]` holds what was received (R50). -/
theorem exchange_tb_take {n : Nat} (h : n ≤ 37) :
    (exchange n s).tb.toList.take n = received (s.tb.toList.take n) s := by
  rw [exchange_tb, toBytes_toList_of_eq (by simp; omega), List.take_append_of_le_length (by simp [h]),
    List.take_of_length_le (by simp)]

/-- The frame loaded is the frame sent (R23). -/
theorem loadFrame_tb_take {l : List Byte} (h : l.length ≤ 37) : (loadFrame l s).tb.toList.take l.length = l := by
  rw [loadFrame_tb, toBytes_toList_of_eq (by simp; omega), List.take_append_of_le_length le_rfl, List.take_length]

/-- The part of `TB` beyond the frame is as before (R23). -/
theorem loadFrame_tb_drop {l : List Byte} (h : l.length ≤ 37) :
    (loadFrame l s).tb.toList.drop l.length = s.tb.toList.drop l.length := by
  rw [loadFrame_tb, toBytes_toList_of_eq (by simp; omega), List.drop_append_of_le_length le_rfl, List.drop_length,
    List.nil_append]

/-! ### What Xchg leaves unchanged -/

@[simp] theorem exchange_acc (n : Nat) : (exchange n s).acc = s.acc := by
  simp only [exchange, afterExchange, record]; split <;> rfl
@[simp] theorem exchange_id (n : Nat) : (exchange n s).id = s.id := by
  simp only [exchange, afterExchange, record]; split <;> rfl
@[simp] theorem exchange_tbLen (n : Nat) : (exchange n s).tbLen = s.tbLen := by
  simp only [exchange, afterExchange, record]; split <;> rfl
@[simp] theorem exchange_seq (n : Nat) : (exchange n s).seq = s.seq := by
  simp only [exchange, afterExchange, record]; split <;> rfl
@[simp] theorem exchange_wstate (n : Nat) : (exchange n s).wstate = s.wstate := by
  simp only [exchange, afterExchange, record]; split <;> rfl
@[simp] theorem exchange_opc (n : Nat) : (exchange n s).opc = s.opc := by
  simp only [exchange, afterExchange, record]; split <;> rfl
@[simp] theorem exchange_argCont (n : Nat) : (exchange n s).argCont = s.argCont := by
  simp only [exchange, afterExchange, record]; split <;> rfl
@[simp] theorem exchange_argPidx (n : Nat) : (exchange n s).argPidx = s.argPidx := by
  simp only [exchange, afterExchange, record]; split <;> rfl
@[simp] theorem exchange_argAddr (n : Nat) : (exchange n s).argAddr = s.argAddr := by
  simp only [exchange, afterExchange, record]; split <;> rfl
@[simp] theorem exchange_argByte (n : Nat) : (exchange n s).argByte = s.argByte := by
  simp only [exchange, afterExchange, record]; split <;> rfl
@[simp] theorem exchange_wdata (n : Nat) : (exchange n s).wdata = s.wdata := by
  simp only [exchange, afterExchange, record]; split <;> rfl
@[simp] theorem exchange_status (n : Nat) : (exchange n s).status = s.status := by
  simp only [exchange, afterExchange, record]; split <;> rfl
@[simp] theorem exchange_rdata (n : Nat) : (exchange n s).rdata = s.rdata := by
  simp only [exchange, afterExchange, record]; split <;> rfl
@[simp] theorem exchange_rvalid (n : Nat) : (exchange n s).rvalid = s.rvalid := by
  simp only [exchange, afterExchange, record]; split <;> rfl
@[simp] theorem exchange_conf (n : Nat) : (exchange n s).conf = s.conf := by
  simp only [exchange, afterExchange, record]; split <;> rfl
@[simp] theorem exchange_present (n : Nat) : (exchange n s).present = s.present := by
  simp only [exchange, afterExchange, record]; split <;> rfl
@[simp] theorem exchange_busy (n : Nat) : (exchange n s).busy = s.busy := by
  simp only [exchange, afterExchange, record]; split <;> rfl
@[simp] theorem exchange_busPower (n : Nat) : (exchange n s).busPower = s.busPower := by
  simp only [exchange, afterExchange, record]; split <;> rfl
@[simp] theorem exchange_hangAt (n : Nat) : (exchange n s).hangAt = s.hangAt := by
  simp only [exchange, afterExchange, record]; split <;> rfl
@[simp] theorem exchange_result (n : Nat) : (exchange n s).result = s.result := by
  simp only [exchange, afterExchange, record]; split <;> rfl
@[simp] theorem exchange_inbox (n : Nat) : (exchange n s).inbox = s.inbox := by
  simp only [exchange, afterExchange, record]; split <;> rfl

/-! ### ReadByte -/

@[simp] theorem readByte_acc : (readByte s).acc = s.acc := by
  simp only [readByte]; split <;> rfl
@[simp] theorem readByte_id : (readByte s).id = s.id := by
  simp only [readByte]; split <;> rfl
@[simp] theorem readByte_tb : (readByte s).tb = s.tb := by
  simp only [readByte]; split <;> rfl
@[simp] theorem readByte_tbLen : (readByte s).tbLen = s.tbLen := by
  simp only [readByte]; split <;> rfl
@[simp] theorem readByte_seq : (readByte s).seq = s.seq := by
  simp only [readByte]; split <;> rfl
@[simp] theorem readByte_wstate : (readByte s).wstate = s.wstate := by
  simp only [readByte]; split <;> rfl
@[simp] theorem readByte_opc : (readByte s).opc = s.opc := by
  simp only [readByte]; split <;> rfl
@[simp] theorem readByte_argCont : (readByte s).argCont = s.argCont := by
  simp only [readByte]; split <;> rfl
@[simp] theorem readByte_argPidx : (readByte s).argPidx = s.argPidx := by
  simp only [readByte]; split <;> rfl
@[simp] theorem readByte_argAddr : (readByte s).argAddr = s.argAddr := by
  simp only [readByte]; split <;> rfl
@[simp] theorem readByte_argByte : (readByte s).argByte = s.argByte := by
  simp only [readByte]; split <;> rfl
@[simp] theorem readByte_wdata : (readByte s).wdata = s.wdata := by
  simp only [readByte]; split <;> rfl
@[simp] theorem readByte_status : (readByte s).status = s.status := by
  simp only [readByte]; split <;> rfl
@[simp] theorem readByte_rdata : (readByte s).rdata = s.rdata := by
  simp only [readByte]; split <;> rfl
@[simp] theorem readByte_rvalid : (readByte s).rvalid = s.rvalid := by
  simp only [readByte]; split <;> rfl
@[simp] theorem readByte_present : (readByte s).present = s.present := by
  simp only [readByte]; split <;> rfl
@[simp] theorem readByte_busy : (readByte s).busy = s.busy := by
  simp only [readByte]; split <;> rfl
@[simp] theorem readByte_busPower : (readByte s).busPower = s.busPower := by
  simp only [readByte]; split <;> rfl
@[simp] theorem readByte_hangAt : (readByte s).hangAt = s.hangAt := by
  simp only [readByte]; split <;> rfl
@[simp] theorem readByte_result : (readByte s).result = s.result := by
  simp only [readByte]; split <;> rfl
@[simp] theorem readByte_inbox : (readByte s).inbox = s.inbox := by
  simp only [readByte]; split <;> rfl

@[simp] theorem readByte_env : (readByte s).env = s.env := by
  simp only [readByte]; split <;> simp_all

/-- The byte read is the one in the trace (R51, R122). -/
theorem readByte_trace : (readByte s).trace = s.trace ++ [.rdb (readByte s).conf] := by
  simp only [readByte]; split <;> simp

/-! ### BusReset -/

@[simp] theorem busReset_acc : ((busReset s).2).acc = s.acc := by
  simp only [busReset]; split <;> rfl
@[simp] theorem busReset_id : ((busReset s).2).id = s.id := by
  simp only [busReset]; split <;> rfl
@[simp] theorem busReset_tb : ((busReset s).2).tb = s.tb := by
  simp only [busReset]; split <;> rfl
@[simp] theorem busReset_tbLen : ((busReset s).2).tbLen = s.tbLen := by
  simp only [busReset]; split <;> rfl
@[simp] theorem busReset_seq : ((busReset s).2).seq = s.seq := by
  simp only [busReset]; split <;> rfl
@[simp] theorem busReset_wstate : ((busReset s).2).wstate = s.wstate := by
  simp only [busReset]; split <;> rfl
@[simp] theorem busReset_opc : ((busReset s).2).opc = s.opc := by
  simp only [busReset]; split <;> rfl
@[simp] theorem busReset_argCont : ((busReset s).2).argCont = s.argCont := by
  simp only [busReset]; split <;> rfl
@[simp] theorem busReset_argPidx : ((busReset s).2).argPidx = s.argPidx := by
  simp only [busReset]; split <;> rfl
@[simp] theorem busReset_argAddr : ((busReset s).2).argAddr = s.argAddr := by
  simp only [busReset]; split <;> rfl
@[simp] theorem busReset_argByte : ((busReset s).2).argByte = s.argByte := by
  simp only [busReset]; split <;> rfl
@[simp] theorem busReset_wdata : ((busReset s).2).wdata = s.wdata := by
  simp only [busReset]; split <;> rfl
@[simp] theorem busReset_status : ((busReset s).2).status = s.status := by
  simp only [busReset]; split <;> rfl
@[simp] theorem busReset_rdata : ((busReset s).2).rdata = s.rdata := by
  simp only [busReset]; split <;> rfl
@[simp] theorem busReset_rvalid : ((busReset s).2).rvalid = s.rvalid := by
  simp only [busReset]; split <;> rfl
@[simp] theorem busReset_conf : ((busReset s).2).conf = s.conf := by
  simp only [busReset]; split <;> rfl
@[simp] theorem busReset_present : ((busReset s).2).present = s.present := by
  simp only [busReset]; split <;> rfl
@[simp] theorem busReset_busy : ((busReset s).2).busy = s.busy := by
  simp only [busReset]; split <;> rfl
@[simp] theorem busReset_busPower : ((busReset s).2).busPower = s.busPower := by
  simp only [busReset]; split <;> rfl
@[simp] theorem busReset_hangAt : ((busReset s).2).hangAt = s.hangAt := by
  simp only [busReset]; split <;> rfl
@[simp] theorem busReset_result : ((busReset s).2).result = s.result := by
  simp only [busReset]; split <;> rfl
@[simp] theorem busReset_inbox : ((busReset s).2).inbox = s.inbox := by
  simp only [busReset]; split <;> rfl

/-- The answer is the one in the trace (R49). -/
theorem busReset_trace : (busReset s).2.trace = s.trace ++ [.rst (busReset s).1] := by
  simp only [busReset]; split <;> rfl


/-- What a bus reset does to the reference environment (R64). -/
theorem busReset_env : (busReset s).2.env = s.env.map Env.busReset := by
  simp only [busReset]; split <;> simp_all

theorem busReset_fst_of_none (h : s.env = none) : (busReset s).1 = s.oracle.takePresence.1 := by simp [busReset, h]
theorem busReset_fst_of_some {e : Env} (h : s.env = some e) : (busReset s).1 = e.present := by simp [busReset, h]
theorem busReset_oracle_of_none (h : s.env = none) : (busReset s).2.oracle = s.oracle.takePresence.2 := by
  simp [busReset, h]
theorem busReset_oracle_of_some {e : Env} (h : s.env = some e) : (busReset s).2.oracle = s.oracle := by
  simp [busReset, h]

/-! ### The selector and the frames -/

@[simp] theorem probe_acc : ((probe s).2).acc = s.acc := by simp [probe]
@[simp] theorem probe_id : ((probe s).2).id = s.id := by simp [probe]
@[simp] theorem probe_tb : ((probe s).2).tb = s.tb := by simp [probe]
@[simp] theorem probe_tbLen : ((probe s).2).tbLen = s.tbLen := by simp [probe]
@[simp] theorem probe_wstate : ((probe s).2).wstate = s.wstate := by simp [probe]
@[simp] theorem probe_opc : ((probe s).2).opc = s.opc := by simp [probe]
@[simp] theorem probe_argCont : ((probe s).2).argCont = s.argCont := by simp [probe]
@[simp] theorem probe_argPidx : ((probe s).2).argPidx = s.argPidx := by simp [probe]
@[simp] theorem probe_argAddr : ((probe s).2).argAddr = s.argAddr := by simp [probe]
@[simp] theorem probe_argByte : ((probe s).2).argByte = s.argByte := by simp [probe]
@[simp] theorem probe_wdata : ((probe s).2).wdata = s.wdata := by simp [probe]
@[simp] theorem probe_status : ((probe s).2).status = s.status := by simp [probe]
@[simp] theorem probe_rdata : ((probe s).2).rdata = s.rdata := by simp [probe]
@[simp] theorem probe_rvalid : ((probe s).2).rvalid = s.rvalid := by simp [probe]
@[simp] theorem probe_conf : ((probe s).2).conf = s.conf := by simp [probe]
@[simp] theorem probe_busy : ((probe s).2).busy = s.busy := by simp [probe]
@[simp] theorem probe_busPower : ((probe s).2).busPower = s.busPower := by simp [probe]
@[simp] theorem probe_hangAt : ((probe s).2).hangAt = s.hangAt := by simp [probe]
@[simp] theorem probe_result : ((probe s).2).result = s.result := by simp [probe]
@[simp] theorem probe_inbox : ((probe s).2).inbox = s.inbox := by simp [probe]
@[simp] theorem probe_seq : (probe s).2.seq = .selReset := by simp [probe]
@[simp] theorem probe_present : (probe s).2.present = (probe s).1 := by simp [probe]
theorem probe_trace : (probe s).2.trace = s.trace ++ [.rst (probe s).1] := by simp [probe, busReset_trace]

@[simp] theorem frameMatch_acc (v : Bytes 8) : (frameMatch v s).acc = s.acc := by simp [frameMatch, matchCall]
@[simp] theorem frameMatch_id (v : Bytes 8) : (frameMatch v s).id = s.id := by simp [frameMatch, matchCall]
@[simp] theorem frameMatch_wstate (v : Bytes 8) : (frameMatch v s).wstate = s.wstate := by simp [frameMatch, matchCall]
@[simp] theorem frameMatch_opc (v : Bytes 8) : (frameMatch v s).opc = s.opc := by simp [frameMatch, matchCall]
@[simp] theorem frameMatch_argCont (v : Bytes 8) : (frameMatch v s).argCont = s.argCont := by simp [frameMatch, matchCall]
@[simp] theorem frameMatch_argPidx (v : Bytes 8) : (frameMatch v s).argPidx = s.argPidx := by simp [frameMatch, matchCall]
@[simp] theorem frameMatch_argAddr (v : Bytes 8) : (frameMatch v s).argAddr = s.argAddr := by simp [frameMatch, matchCall]
@[simp] theorem frameMatch_argByte (v : Bytes 8) : (frameMatch v s).argByte = s.argByte := by simp [frameMatch, matchCall]
@[simp] theorem frameMatch_wdata (v : Bytes 8) : (frameMatch v s).wdata = s.wdata := by simp [frameMatch, matchCall]
@[simp] theorem frameMatch_status (v : Bytes 8) : (frameMatch v s).status = s.status := by simp [frameMatch, matchCall]
@[simp] theorem frameMatch_rdata (v : Bytes 8) : (frameMatch v s).rdata = s.rdata := by simp [frameMatch, matchCall]
@[simp] theorem frameMatch_rvalid (v : Bytes 8) : (frameMatch v s).rvalid = s.rvalid := by simp [frameMatch, matchCall]
@[simp] theorem frameMatch_conf (v : Bytes 8) : (frameMatch v s).conf = s.conf := by simp [frameMatch, matchCall]
@[simp] theorem frameMatch_present (v : Bytes 8) : (frameMatch v s).present = s.present := by simp [frameMatch, matchCall]
@[simp] theorem frameMatch_busy (v : Bytes 8) : (frameMatch v s).busy = s.busy := by simp [frameMatch, matchCall]
@[simp] theorem frameMatch_busPower (v : Bytes 8) : (frameMatch v s).busPower = s.busPower := by simp [frameMatch, matchCall]
@[simp] theorem frameMatch_hangAt (v : Bytes 8) : (frameMatch v s).hangAt = s.hangAt := by simp [frameMatch, matchCall]
@[simp] theorem frameMatch_result (v : Bytes 8) : (frameMatch v s).result = s.result := by simp [frameMatch, matchCall]
@[simp] theorem frameMatch_inbox (v : Bytes 8) : (frameMatch v s).inbox = s.inbox := by simp [frameMatch, matchCall]
@[simp] theorem frameMatch_seq (v : Bytes 8) : (frameMatch v s).seq = .selMatch := by simp [frameMatch, matchCall]
@[simp] theorem frameMatch_tbLen (v : Bytes 8) : (frameMatch v s).tbLen = 9 := by simp [frameMatch, matchCall]

@[simp] theorem frameRead_id (a : Word) : (frameRead a s).id = s.id := by simp [frameRead, readCall]
@[simp] theorem frameRead_wstate (a : Word) : (frameRead a s).wstate = s.wstate := by simp [frameRead, readCall]
@[simp] theorem frameRead_opc (a : Word) : (frameRead a s).opc = s.opc := by simp [frameRead, readCall]
@[simp] theorem frameRead_argCont (a : Word) : (frameRead a s).argCont = s.argCont := by simp [frameRead, readCall]
@[simp] theorem frameRead_argPidx (a : Word) : (frameRead a s).argPidx = s.argPidx := by simp [frameRead, readCall]
@[simp] theorem frameRead_argAddr (a : Word) : (frameRead a s).argAddr = s.argAddr := by simp [frameRead, readCall]
@[simp] theorem frameRead_argByte (a : Word) : (frameRead a s).argByte = s.argByte := by simp [frameRead, readCall]
@[simp] theorem frameRead_wdata (a : Word) : (frameRead a s).wdata = s.wdata := by simp [frameRead, readCall]
@[simp] theorem frameRead_status (a : Word) : (frameRead a s).status = s.status := by simp [frameRead, readCall]
@[simp] theorem frameRead_rdata (a : Word) : (frameRead a s).rdata = s.rdata := by simp [frameRead, readCall]
@[simp] theorem frameRead_rvalid (a : Word) : (frameRead a s).rvalid = s.rvalid := by simp [frameRead, readCall]
@[simp] theorem frameRead_conf (a : Word) : (frameRead a s).conf = s.conf := by simp [frameRead, readCall]
@[simp] theorem frameRead_present (a : Word) : (frameRead a s).present = s.present := by simp [frameRead, readCall]
@[simp] theorem frameRead_busy (a : Word) : (frameRead a s).busy = s.busy := by simp [frameRead, readCall]
@[simp] theorem frameRead_busPower (a : Word) : (frameRead a s).busPower = s.busPower := by simp [frameRead, readCall]
@[simp] theorem frameRead_hangAt (a : Word) : (frameRead a s).hangAt = s.hangAt := by simp [frameRead, readCall]
@[simp] theorem frameRead_result (a : Word) : (frameRead a s).result = s.result := by simp [frameRead, readCall]
@[simp] theorem frameRead_inbox (a : Word) : (frameRead a s).inbox = s.inbox := by simp [frameRead, readCall]
@[simp] theorem frameRead_seq (a : Word) : (frameRead a s).seq = .rdFold := by simp [frameRead, readCall]
@[simp] theorem frameRead_tbLen (a : Word) : (frameRead a s).tbLen = 37 := by simp [frameRead, readCall]

@[simp] theorem frameReadc_id : (frameReadc s).id = s.id := by simp [frameReadc, readcCall]
@[simp] theorem frameReadc_wstate : (frameReadc s).wstate = s.wstate := by simp [frameReadc, readcCall]
@[simp] theorem frameReadc_opc : (frameReadc s).opc = s.opc := by simp [frameReadc, readcCall]
@[simp] theorem frameReadc_argCont : (frameReadc s).argCont = s.argCont := by simp [frameReadc, readcCall]
@[simp] theorem frameReadc_argPidx : (frameReadc s).argPidx = s.argPidx := by simp [frameReadc, readcCall]
@[simp] theorem frameReadc_argAddr : (frameReadc s).argAddr = s.argAddr := by simp [frameReadc, readcCall]
@[simp] theorem frameReadc_argByte : (frameReadc s).argByte = s.argByte := by simp [frameReadc, readcCall]
@[simp] theorem frameReadc_wdata : (frameReadc s).wdata = s.wdata := by simp [frameReadc, readcCall]
@[simp] theorem frameReadc_status : (frameReadc s).status = s.status := by simp [frameReadc, readcCall]
@[simp] theorem frameReadc_rdata : (frameReadc s).rdata = s.rdata := by simp [frameReadc, readcCall]
@[simp] theorem frameReadc_rvalid : (frameReadc s).rvalid = s.rvalid := by simp [frameReadc, readcCall]
@[simp] theorem frameReadc_conf : (frameReadc s).conf = s.conf := by simp [frameReadc, readcCall]
@[simp] theorem frameReadc_present : (frameReadc s).present = s.present := by simp [frameReadc, readcCall]
@[simp] theorem frameReadc_busy : (frameReadc s).busy = s.busy := by simp [frameReadc, readcCall]
@[simp] theorem frameReadc_busPower : (frameReadc s).busPower = s.busPower := by simp [frameReadc, readcCall]
@[simp] theorem frameReadc_hangAt : (frameReadc s).hangAt = s.hangAt := by simp [frameReadc, readcCall]
@[simp] theorem frameReadc_result : (frameReadc s).result = s.result := by simp [frameReadc, readcCall]
@[simp] theorem frameReadc_inbox : (frameReadc s).inbox = s.inbox := by simp [frameReadc, readcCall]
@[simp] theorem frameReadc_seq : (frameReadc s).seq = .rdFold := by simp [frameReadc, readcCall]
@[simp] theorem frameReadc_tbLen : (frameReadc s).tbLen = 34 := by simp [frameReadc, readcCall]

@[simp] theorem frameWsp_id (a : Word) (d : Bytes 32) : (frameWsp a d s).id = s.id := by simp [frameWsp, wspCall]
@[simp] theorem frameWsp_wstate (a : Word) (d : Bytes 32) : (frameWsp a d s).wstate = s.wstate := by simp [frameWsp, wspCall]
@[simp] theorem frameWsp_opc (a : Word) (d : Bytes 32) : (frameWsp a d s).opc = s.opc := by simp [frameWsp, wspCall]
@[simp] theorem frameWsp_argCont (a : Word) (d : Bytes 32) : (frameWsp a d s).argCont = s.argCont := by simp [frameWsp, wspCall]
@[simp] theorem frameWsp_argPidx (a : Word) (d : Bytes 32) : (frameWsp a d s).argPidx = s.argPidx := by simp [frameWsp, wspCall]
@[simp] theorem frameWsp_argAddr (a : Word) (d : Bytes 32) : (frameWsp a d s).argAddr = s.argAddr := by simp [frameWsp, wspCall]
@[simp] theorem frameWsp_argByte (a : Word) (d : Bytes 32) : (frameWsp a d s).argByte = s.argByte := by simp [frameWsp, wspCall]
@[simp] theorem frameWsp_wdata (a : Word) (d : Bytes 32) : (frameWsp a d s).wdata = s.wdata := by simp [frameWsp, wspCall]
@[simp] theorem frameWsp_status (a : Word) (d : Bytes 32) : (frameWsp a d s).status = s.status := by simp [frameWsp, wspCall]
@[simp] theorem frameWsp_rdata (a : Word) (d : Bytes 32) : (frameWsp a d s).rdata = s.rdata := by simp [frameWsp, wspCall]
@[simp] theorem frameWsp_rvalid (a : Word) (d : Bytes 32) : (frameWsp a d s).rvalid = s.rvalid := by simp [frameWsp, wspCall]
@[simp] theorem frameWsp_conf (a : Word) (d : Bytes 32) : (frameWsp a d s).conf = s.conf := by simp [frameWsp, wspCall]
@[simp] theorem frameWsp_present (a : Word) (d : Bytes 32) : (frameWsp a d s).present = s.present := by simp [frameWsp, wspCall]
@[simp] theorem frameWsp_busy (a : Word) (d : Bytes 32) : (frameWsp a d s).busy = s.busy := by simp [frameWsp, wspCall]
@[simp] theorem frameWsp_busPower (a : Word) (d : Bytes 32) : (frameWsp a d s).busPower = s.busPower := by simp [frameWsp, wspCall]
@[simp] theorem frameWsp_hangAt (a : Word) (d : Bytes 32) : (frameWsp a d s).hangAt = s.hangAt := by simp [frameWsp, wspCall]
@[simp] theorem frameWsp_result (a : Word) (d : Bytes 32) : (frameWsp a d s).result = s.result := by simp [frameWsp, wspCall]
@[simp] theorem frameWsp_inbox (a : Word) (d : Bytes 32) : (frameWsp a d s).inbox = s.inbox := by simp [frameWsp, wspCall]
@[simp] theorem frameWsp_seq (a : Word) (d : Bytes 32) : (frameWsp a d s).seq = .wsFold := by simp [frameWsp, wspCall]
@[simp] theorem frameWsp_tbLen (a : Word) (d : Bytes 32) : (frameWsp a d s).tbLen = 37 := by simp [frameWsp, wspCall]

@[simp] theorem frameCopy_acc (a : Word) : (frameCopy a s).acc = s.acc := by simp [frameCopy, copyCall]
@[simp] theorem frameCopy_id (a : Word) : (frameCopy a s).id = s.id := by simp [frameCopy, copyCall]
@[simp] theorem frameCopy_wstate (a : Word) : (frameCopy a s).wstate = s.wstate := by simp [frameCopy, copyCall]
@[simp] theorem frameCopy_opc (a : Word) : (frameCopy a s).opc = s.opc := by simp [frameCopy, copyCall]
@[simp] theorem frameCopy_argCont (a : Word) : (frameCopy a s).argCont = s.argCont := by simp [frameCopy, copyCall]
@[simp] theorem frameCopy_argPidx (a : Word) : (frameCopy a s).argPidx = s.argPidx := by simp [frameCopy, copyCall]
@[simp] theorem frameCopy_argAddr (a : Word) : (frameCopy a s).argAddr = s.argAddr := by simp [frameCopy, copyCall]
@[simp] theorem frameCopy_argByte (a : Word) : (frameCopy a s).argByte = s.argByte := by simp [frameCopy, copyCall]
@[simp] theorem frameCopy_wdata (a : Word) : (frameCopy a s).wdata = s.wdata := by simp [frameCopy, copyCall]
@[simp] theorem frameCopy_status (a : Word) : (frameCopy a s).status = s.status := by simp [frameCopy, copyCall]
@[simp] theorem frameCopy_rdata (a : Word) : (frameCopy a s).rdata = s.rdata := by simp [frameCopy, copyCall]
@[simp] theorem frameCopy_rvalid (a : Word) : (frameCopy a s).rvalid = s.rvalid := by simp [frameCopy, copyCall]
@[simp] theorem frameCopy_conf (a : Word) : (frameCopy a s).conf = s.conf := by simp [frameCopy, copyCall]
@[simp] theorem frameCopy_present (a : Word) : (frameCopy a s).present = s.present := by simp [frameCopy, copyCall]
@[simp] theorem frameCopy_busy (a : Word) : (frameCopy a s).busy = s.busy := by simp [frameCopy, copyCall]
@[simp] theorem frameCopy_busPower (a : Word) : (frameCopy a s).busPower = s.busPower := by simp [frameCopy, copyCall]
@[simp] theorem frameCopy_hangAt (a : Word) : (frameCopy a s).hangAt = s.hangAt := by simp [frameCopy, copyCall]
@[simp] theorem frameCopy_result (a : Word) : (frameCopy a s).result = s.result := by simp [frameCopy, copyCall]
@[simp] theorem frameCopy_inbox (a : Word) : (frameCopy a s).inbox = s.inbox := by simp [frameCopy, copyCall]
@[simp] theorem frameCopy_seq (a : Word) : (frameCopy a s).seq = .cpCmd := by simp [frameCopy, copyCall]
@[simp] theorem frameCopy_tbLen (a : Word) : (frameCopy a s).tbLen = 3 := by simp [frameCopy, copyCall]

@[simp] theorem frameAuth_acc : (frameAuth s).acc = s.acc := by simp [frameAuth, authCall]
@[simp] theorem frameAuth_id : (frameAuth s).id = s.id := by simp [frameAuth, authCall]
@[simp] theorem frameAuth_wstate : (frameAuth s).wstate = s.wstate := by simp [frameAuth, authCall]
@[simp] theorem frameAuth_opc : (frameAuth s).opc = s.opc := by simp [frameAuth, authCall]
@[simp] theorem frameAuth_argCont : (frameAuth s).argCont = s.argCont := by simp [frameAuth, authCall]
@[simp] theorem frameAuth_argPidx : (frameAuth s).argPidx = s.argPidx := by simp [frameAuth, authCall]
@[simp] theorem frameAuth_argAddr : (frameAuth s).argAddr = s.argAddr := by simp [frameAuth, authCall]
@[simp] theorem frameAuth_argByte : (frameAuth s).argByte = s.argByte := by simp [frameAuth, authCall]
@[simp] theorem frameAuth_wdata : (frameAuth s).wdata = s.wdata := by simp [frameAuth, authCall]
@[simp] theorem frameAuth_status : (frameAuth s).status = s.status := by simp [frameAuth, authCall]
@[simp] theorem frameAuth_rdata : (frameAuth s).rdata = s.rdata := by simp [frameAuth, authCall]
@[simp] theorem frameAuth_rvalid : (frameAuth s).rvalid = s.rvalid := by simp [frameAuth, authCall]
@[simp] theorem frameAuth_conf : (frameAuth s).conf = s.conf := by simp [frameAuth, authCall]
@[simp] theorem frameAuth_present : (frameAuth s).present = s.present := by simp [frameAuth, authCall]
@[simp] theorem frameAuth_busy : (frameAuth s).busy = s.busy := by simp [frameAuth, authCall]
@[simp] theorem frameAuth_busPower : (frameAuth s).busPower = s.busPower := by simp [frameAuth, authCall]
@[simp] theorem frameAuth_hangAt : (frameAuth s).hangAt = s.hangAt := by simp [frameAuth, authCall]
@[simp] theorem frameAuth_result : (frameAuth s).result = s.result := by simp [frameAuth, authCall]
@[simp] theorem frameAuth_inbox : (frameAuth s).inbox = s.inbox := by simp [frameAuth, authCall]
@[simp] theorem frameAuth_seq : (frameAuth s).seq = .cpAuth := by simp [frameAuth, authCall]
@[simp] theorem frameAuth_tbLen : (frameAuth s).tbLen = 1 := by simp [frameAuth, authCall]

@[simp] theorem select_acc : ((select s).2).acc = s.acc := by simp only [select]; split <;> simp
@[simp] theorem select_id : ((select s).2).id = s.id := by simp only [select]; split <;> simp
@[simp] theorem select_wstate : ((select s).2).wstate = s.wstate := by simp only [select]; split <;> simp
@[simp] theorem select_opc : ((select s).2).opc = s.opc := by simp only [select]; split <;> simp
@[simp] theorem select_argCont : ((select s).2).argCont = s.argCont := by simp only [select]; split <;> simp
@[simp] theorem select_argPidx : ((select s).2).argPidx = s.argPidx := by simp only [select]; split <;> simp
@[simp] theorem select_argAddr : ((select s).2).argAddr = s.argAddr := by simp only [select]; split <;> simp
@[simp] theorem select_argByte : ((select s).2).argByte = s.argByte := by simp only [select]; split <;> simp
@[simp] theorem select_wdata : ((select s).2).wdata = s.wdata := by simp only [select]; split <;> simp
@[simp] theorem select_status : ((select s).2).status = s.status := by simp only [select]; split <;> simp
@[simp] theorem select_rdata : ((select s).2).rdata = s.rdata := by simp only [select]; split <;> simp
@[simp] theorem select_rvalid : ((select s).2).rvalid = s.rvalid := by simp only [select]; split <;> simp
@[simp] theorem select_conf : ((select s).2).conf = s.conf := by simp only [select]; split <;> simp
@[simp] theorem select_busy : ((select s).2).busy = s.busy := by simp only [select]; split <;> simp
@[simp] theorem select_busPower : ((select s).2).busPower = s.busPower := by simp only [select]; split <;> simp
@[simp] theorem select_hangAt : ((select s).2).hangAt = s.hangAt := by simp only [select]; split <;> simp
@[simp] theorem select_result : ((select s).2).result = s.result := by simp only [select]; split <;> simp
@[simp] theorem select_inbox : ((select s).2).inbox = s.inbox := by simp only [select]; split <;> simp

theorem select_present : (select s).2.present = (select s).1 := by simp only [select]; split <;> simp

theorem select_fst : (select s).1 = (probe s).1 := rfl

theorem select_of_present (h : (probe s).1 = true) : select s = (true, frameMatch s.id (probe s).2) := by
  simp [select, h]

theorem select_of_absent (h : (probe s).1 = false) : select s = (false, (probe s).2) := by
  simp [select, h]

/-! ### Delivery -/

variable {s t : State} {calls : List State}

theorem bounded_iff : s.bounded = true ↔ s.hangAt = none := by simp [State.bounded]

/-- Where every call returns, none hangs (R166). -/
theorem hungCall_of_bounded (hb : s.bounded = true) : hungCall s calls = none := by
  simp [hungCall, bounded_iff.mp hb]

@[simp] theorem hungCall_nil : hungCall s [] = none := by
  unfold hungCall
  cases s.hangAt <;> rfl

theorem hungCall_cons (p : State) :
    hungCall s (p :: calls) = if s.hangAt = some p.trace.length then some p else hungCall s calls := by
  unfold hungCall
  cases h : s.hangAt with
  | none => simp
  | some n =>
    by_cases hn : n = p.trace.length
    · simp [hn]
    · simp [hn, Ne.symm hn]

/-- Calls made one list after the other: the first that hangs (R57). -/
theorem hungCall_append (more : List State) : hungCall s (calls ++ more) = (hungCall s calls).or (hungCall s more) := by
  unfold hungCall
  cases s.hangAt <;> simp

/-- The call that hangs is one of the calls, and its number in the history of the bus is `hangAt`. -/
theorem hungCall_some {p : State} (h : hungCall s calls = some p) : p ∈ calls ∧ s.hangAt = some p.trace.length := by
  unfold hungCall at h
  cases hn : s.hangAt with
  | none => simp [hn] at h
  | some n =>
    simp only [hn, Option.bind_some] at h
    have hp : p.trace.length = n := by simpa using List.find?_some h
    exact ⟨List.mem_of_find?_eq_some h, by rw [hp]⟩

/-- No call hangs iff none has the number `hangAt`. -/
theorem hungCall_none : hungCall s calls = none ↔ ∀ p ∈ calls, s.hangAt ≠ some p.trace.length := by
  induction calls with
  | nil => simp
  | cons q l ih =>
    rw [hungCall_cons]
    split <;> simp_all

/-- Which call hangs depends on `hangAt` alone. -/
theorem hungCall_congr (h : t.hangAt = s.hangAt) : hungCall t calls = hungCall s calls := by simp only [hungCall, h]

theorem unlessRefused_of_none (he : s.env = none) (o : Host.Outcome State Fault Refusal) : unlessRefused s t o = o := by
  simp [unlessRefused, he]

theorem unlessRefused_of_inside (ho : t.envOutside = false) (o : Host.Outcome State Fault Refusal) :
    unlessRefused s t o = o := by
  simp [unlessRefused, ho]

theorem unlessRefused_of_outside {e : Env} (he : s.env = some e) (ho : t.envOutside = true)
    (o : Host.Outcome State Fault Refusal) : unlessRefused s t o = .refused .environmentUndefined := by
  simp [unlessRefused, he, ho]

theorem deliver_of_oracle (calls : List State) (t : State) (hb : s.bounded = true) (he : s.env = none) :
    deliver s calls t = .next t := by
  simp [deliver, hungCall_of_bounded hb, unlessRefused_of_none he]

/-- Where the work is delivered as a next state, it is that state, no call hung, and a reference environment has not left
its definition. -/
theorem deliver_next {u : State} (h : deliver s calls t = .next u) :
    u = t ∧ hungCall s calls = none ∧ (s.env = none ∨ t.envOutside = false) := by
  unfold deliver unlessRefused at h
  split at h <;> split at h <;> cases h
  rename_i hn ho
  refine ⟨rfl, hn, ?_⟩
  cases he : s.env with
  | none => exact .inl rfl
  | some e => exact .inr (by simpa [he] using ho)

/-- Where the work stops with a fault, PIOC hangs in one of its calls (R166). -/
theorem deliver_fault {r : Fault} (h : deliver s calls t = .fault r) : ∃ p, r = .transportHung p ∧ hungCall s calls = some p := by
  unfold deliver unlessRefused at h
  split at h <;> split at h <;> cases h
  rename_i p hp _
  exact ⟨p, rfl, hp⟩

/-- Where a call hangs, the work hangs, unless the reference environment has left its definition before (R166). -/
theorem deliver_hung {p : State} (h : hungCall s calls = some p) :
    deliver s calls t = unlessRefused s p (.fault (.transportHung p)) := by
  simp [deliver, h]

/-- Work in which no call hangs, with the environment inside its definition afterwards. -/
theorem deliver_of_inside (hn : hungCall s calls = none) (ho : t.envOutside = false) : deliver s calls t = .next t := by
  simp [deliver, hn, unlessRefused_of_inside ho]

theorem deliver_of_outside {e : Env} (hn : hungCall s calls = none) (he : s.env = some e) (ho : t.envOutside = true) :
    deliver s calls t = .refused .environmentUndefined := by
  simp [deliver, hn, unlessRefused_of_outside he ho]

end Sys2Proof.Machine
end

