-- ==== Sys2Proof/Laws/Frames.lean ====
section
/-! SUPPORT. What a selection, a frame and the copy phase do, said once each: the events they add to the trace, what they
leave in `TB`, and what they fold. -/

namespace Sys2Proof.Machine

variable (s : State)

/-! ### The answer of BusReset depends on the oracle and the environment alone -/

@[simp] theorem busReset_setSeq_fst (q : Seq) : (busReset (setSeq q s)).1 = (busReset s).1 := by
  simp only [busReset, setSeq]; cases s.env <;> rfl

theorem probe_fst : (probe s).1 = (busReset s).1 := by simp [probe]

/-! ### Sending one frame -/

/-- After loading, `TB` begins with the frame (R23). -/
theorem loadFrame_tb_toList {l : List Byte} (h : l.length ≤ 37) :
    (loadFrame l s).tb.toList = l ++ s.tb.toList.drop l.length := by
  rw [loadFrame_tb, toBytes_toList_of_eq (by simp; omega)]

/-- `Xchg(n)` with a frame of `n` bytes in `TB`: one event with its bytes, and the received bytes in their place (R50). -/
theorem exchange_spec {u : State} {l rest : List Byte} (hu : u.tb.toList = l ++ rest) :
    ∃ rx : List Byte, rx.length = l.length ∧ (exchange l.length u).trace = u.trace ++ [.xch l rx] ∧
      (exchange l.length u).tb.toList = rx ++ rest := by
  have hlen : l.length + rest.length = 37 := by simpa using (congrArg List.length hu).symm
  refine ⟨received l u, by simp, ?_, ?_⟩
  · rw [exchange_trace, hu, List.take_left']; rfl
  · rw [exchange_tb, hu, List.take_left' rfl, List.drop_left' rfl, toBytes_toList_of_eq (by simp [hlen])]

/-- A frame that is loaded and exchanged (R23, R50). -/
theorem exchange_loadFrame (q : Seq) (l : List Byte) {n : Nat} (hn : l.length = n) (h : n ≤ 37) :
    ∃ rx : List Byte, rx.length = n ∧
      (exchange n (setSeq q (loadFrame l s))).trace = s.trace ++ [.xch l rx] ∧
      (exchange n (setSeq q (loadFrame l s))).tb.toList = rx ++ s.tb.toList.drop n := by
  subst hn
  simpa using exchange_spec (u := setSeq q (loadFrame l s)) (by simpa using loadFrame_tb_toList s h)

/-- `W.MATCH` (R75). -/
theorem frameMatch_spec (v : Bytes 8) :
    ∃ rx : List Byte, rx.length = 9 ∧ (frameMatch v s).trace = s.trace ++ [.xch (0x55 :: v.toList) rx] ∧
      (frameMatch v s).tb.toList = rx ++ s.tb.toList.drop 9 :=
  exchange_loadFrame (setSeq .selMatch s) .selMatch _ (encode_wMatch_length v) (by omega)

/-- `W.COPY` (R79). -/
theorem frameCopy_spec (a : Word) :
    ∃ rx : List Byte, rx.length = 3 ∧ (frameCopy a s).trace = s.trace ++ [.xch [0x55, lo8 a, hi8 a] rx] ∧
      (frameCopy a s).tb.toList = rx ++ s.tb.toList.drop 3 :=
  exchange_loadFrame (setSeq .cpCmd s) .cpCmd _ (encode_wCopy_length a) (by omega)

/-- `W.AUTH` (R80). -/
theorem frameAuth_spec :
    ∃ rx : List Byte, rx.length = 1 ∧ (frameAuth s).trace = s.trace ++ [.xch [0x1F] rx] ∧
      (frameAuth s).tb.toList = rx ++ s.tb.toList.drop 1 :=
  exchange_loadFrame (setSeq .cpAuth s) .cpAuth _ encode_wAuth_length (by omega)

/-- Folding is a left fold: a list folded in two parts (R97). -/
theorem crc16Fold_append (a : Word) (l m : List Byte) : crc16Fold a (l ++ m) = crc16Fold (crc16Fold a l) m := by
  induction l generalizing a with
  | nil => rfl
  | cons b l ih => exact ih _

/-- `W.READ` (R76). -/
theorem frameRead_spec (a : Word) :
    ∃ rx : List Byte, rx.length = 37 ∧
      (frameRead a s).trace = s.trace ++ [.xch ([0xA5, lo8 a, hi8 a] ++ List.replicate 34 0xFF) rx] ∧
      (frameRead a s).tb.toList = rx ∧
      (frameRead a s).acc = crc16Fold (crc16Fold s.acc [0xA5, lo8 a, hi8 a]) (rx.drop 3) := by
  obtain ⟨rx, hl, ht, hb⟩ := exchange_loadFrame
    (foldBytes [cmdRead, lo8 a, hi8 a] (setSeq .rdHdr s)) .rdXchg _ (encode_wRead_length a) (by omega)
  have hb' : (frameRead a s).tb.toList = rx := by
    simpa [frameRead, readCall, List.drop_eq_nil_of_le] using hb
  refine ⟨rx, hl, ht, hb', ?_⟩
  have : ((frameRead a s).tb.toList.drop 3).take 34 = rx.drop 3 := by
    rw [hb', List.take_of_length_le (by simp [hl])]
  rw [← this]
  simp [frameRead, readCall, cmdRead]

/-- `W.READC` (R77). -/
theorem frameReadc_spec :
    ∃ rx : List Byte, rx.length = 34 ∧ (frameReadc s).trace = s.trace ++ [.xch (List.replicate 34 0xFF) rx] ∧
      (frameReadc s).tb.toList = rx ++ s.tb.toList.drop 34 ∧ (frameReadc s).acc = crc16Fold s.acc rx := by
  obtain ⟨rx, hl, ht, hb⟩ := exchange_loadFrame (setSeq .rdHdr s) .rdXchg _ encode_wReadc_length (by omega)
  have hb' : (frameReadc s).tb.toList = rx ++ s.tb.toList.drop 34 := hb
  refine ⟨rx, hl, ht, hb', ?_⟩
  have : (frameReadc s).tb.toList.take 34 = rx := by
    rw [hb', List.take_append_of_le_length (by omega), List.take_of_length_le (by omega)]
  rw [← this]
  simp [frameReadc, readcCall]

/-- `W.WSP` (R78, R121): the last two bytes received are the ones folded. -/
theorem frameWsp_spec (a : Word) (d : Bytes 32) :
    ∃ (rx : List Byte) (c0 c1 : Byte), rx.length = 35 ∧
      (frameWsp a d s).trace = s.trace ++ [.xch (scratchFrame a d) (rx ++ [c0, c1])] ∧
      (frameWsp a d s).tb.toList = rx ++ [c0, c1] ∧
      (frameWsp a d s).acc = crc16Fold (crc16Fold s.acc ([0x0F, lo8 a, hi8 a] ++ d.toList)) [c0, c1] := by
  obtain ⟨rx, hl, ht, hb⟩ := exchange_loadFrame
    (foldBytes (cmdWsp :: lo8 a :: hi8 a :: d.toList) (setSeq .wsBuild s)) .wsXchg _ (encode_wWsp_length a d) (by omega)
  have hb' : (frameWsp a d s).tb.toList = rx := by
    simpa [frameWsp, wspCall, List.drop_eq_nil_of_le] using hb
  obtain ⟨c0, c1, hc⟩ := List.length_eq_two.mp (show (rx.drop 35).length = 2 by simp [hl])
  have hsplit : rx = rx.take 35 ++ [c0, c1] := by rw [← hc, List.take_append_drop]
  refine ⟨rx.take 35, c0, c1, by simp [hl], ?_, by rw [← hsplit, hb'], ?_⟩
  · rw [← hsplit]
    exact ht
  · have : ((frameWsp a d s).tb.toList.drop 35).take 2 = [c0, c1] := by rw [hb', hc]; rfl
    rw [← this]
    simp [frameWsp, wspCall, cmdWsp]

/-! ### Selection -/

/-- No device: nothing but the reset (R105, R109). -/
theorem select_absent (h : (busReset s).1 = false) :
    (select s).1 = false ∧ (select s).2.trace = s.trace ++ [.rst false] ∧ (select s).2.tb = s.tb ∧
      (select s).2.tbLen = s.tbLen := by
  have hp : (probe s).1 = false := by rw [probe_fst, h]
  rw [select_of_absent s hp]
  exact ⟨rfl, by rw [probe_trace, hp], by simp, by simp⟩

/-- A device: the reset and the match frame (R105). -/
theorem select_present_spec (h : (busReset s).1 = true) :
    (select s).1 = true ∧ (select s).2.tbLen = 9 ∧
      ∃ rx : List Byte, rx.length = 9 ∧ (select s).2.trace = s.trace ++ selectEvents s rx ∧
        (select s).2.tb.toList = rx ++ s.tb.toList.drop 9 := by
  have hp : (probe s).1 = true := by rw [probe_fst, h]
  rw [select_of_present s hp]
  obtain ⟨rx, hl, ht, hb⟩ := frameMatch_spec (probe s).2 s.id
  refine ⟨rfl, by simp, rx, hl, ?_, ?_⟩
  · rw [ht, probe_trace, hp]; simp [selectEvents]
  · rw [hb]; simp

/-! ### The copy phase after its selection -/

/-- The six events from the copy command to the confirmation byte, which stays in `CONF` (R122, R123). -/
theorem copy_spec (a : Word) :
    ∃ r3 r1 : List Byte, r3.length = 3 ∧ r1.length = 1 ∧
      (confirm (powerOff (waitSettle (frameAuth (powerOn (frameCopy a s)))))).trace =
        s.trace ++ copyEvents a r3 r1 (confirm (powerOff (waitSettle (frameAuth (powerOn (frameCopy a s)))))).conf := by
  obtain ⟨r3, h3, t3, -⟩ := frameCopy_spec s a
  obtain ⟨r1, h1, t1, -⟩ := frameAuth_spec (powerOn (frameCopy a s))
  refine ⟨r3, r1, h3, h1, ?_⟩
  simp only [confirm, readByte_trace, powerOff, waitSettle, setSeq_trace, setPower_trace, settle_trace, t1]
  simp [powerOn, t3, copyEvents]

end Sys2Proof.Machine
end

