-- ==== Sys2Proof/Laws/Environment.lean ====
section
/-! SUPPORT. The reference environment: what its calls leave unchanged, when it leaves its definition and that it never
comes back, what reaches it of a frame, and that only a settling delay changes its memory (R61 to R68). -/

namespace Sys2Proof.Machine

/-! ### The device -/

variable (e : Env) (tx : List Byte) (level : PowerLevel)

@[simp] theorem Env.busReset_mem : e.busReset.mem = e.mem := rfl
@[simp] theorem Env.busReset_outside : e.busReset.outside = e.outside := rfl
@[simp] theorem Env.busReset_present : e.busReset.present = e.present := rfl
@[simp] theorem Env.busReset_devId : e.busReset.devId = e.devId := rfl
@[simp] theorem Env.busReset_nPages : e.busReset.nPages = e.nPages := rfl
@[simp] theorem Env.busReset_scratch : e.busReset.scratch = e.scratch := rfl

/-- One `Xchg` changes the phase, the scratchpad, the copy in preparation and nothing else of the device; it can only
leave the environment's definition. -/
theorem Env.exchange_frame :
    (e.exchange tx level).2.mem = e.mem ∧ (e.exchange tx level).2.present = e.present ∧
      (e.exchange tx level).2.devId = e.devId ∧ (e.exchange tx level).2.nPages = e.nPages ∧
      (e.outside = true → (e.exchange tx level).2.outside = true) := by
  unfold Env.exchange
  split
  · simp
  · unfold Env.matchFrame
    split <;> simp [Env.strayFrame]
  · unfold Env.selectedFrame
    split
    · unfold Env.readFrame
      split <;> simp [Env.leave]
    · unfold Env.scratchFrame
      split <;> simp [Env.leave]
    · simp
    · split <;> simp [Env.strayFrame]
  · unfold Env.contFrame
    split
    · split <;> simp [Env.leave]
    · simp [Env.strayFrame]
  · simp [Env.strayFrame]

/-- The environment leaves its definition only as R65, R66 and R67 say. -/
theorem Env.exchange_leaves {e : Env} {tx : List Byte} {level : PowerLevel} (hi : e.outside = false)
    (ho : (e.exchange tx level).2.outside = true) :
    (e.phase = .selected ∧ ∃ a : Word, deviceFrame tx = some (.wRead a) ∧ e.nPages * 32 ≤ a.toNat + 31) ∨
      (e.phase = .selected ∧ ∃ (a : Word) (d : Bytes 32), deviceFrame tx = some (.wWsp a d) ∧ a.extractLsb' 0 5 ≠ 0) ∨
      (decode .wcont tx = .ok .wReadc ∧ ∃ a, e.phase = .reading a ∧ e.nPages * 32 ≤ a + 31) := by
  unfold Env.exchange at ho
  split at ho
  · simp_all
  · unfold Env.matchFrame at ho
    split at ho <;> simp_all [Env.strayFrame]
  · rename_i hp
    unfold Env.selectedFrame at ho
    split at ho
    · rename_i a hd
      unfold Env.readFrame at ho
      split at ho
      · simp_all
      · rename_i hr
        exact .inl ⟨hp, a, hd, by simpa [Env.inRange] using hr⟩
    · rename_i a d hd
      unfold Env.scratchFrame at ho
      split at ho
      · simp_all
      · rename_i hr
        exact .inr (.inl ⟨hp, a, d, hd, hr⟩)
    · simp_all
    · split at ho <;> simp_all [Env.strayFrame]
  · rename_i a hp
    unfold Env.contFrame at ho
    split at ho
    · rename_i hd
      split at ho
      · simp_all
      · rename_i hr
        exact .inr (.inr ⟨hd, a, hp, by simpa [Env.inRange] using hr⟩)
    · simp_all [Env.strayFrame]
  · simp_all [Env.strayFrame]

@[simp] theorem Env.exchange_mem : (e.exchange tx level).2.mem = e.mem := (e.exchange_frame tx level).1
@[simp] theorem Env.exchange_present : (e.exchange tx level).2.present = e.present := (e.exchange_frame tx level).2.1
@[simp] theorem Env.exchange_devId : (e.exchange tx level).2.devId = e.devId := (e.exchange_frame tx level).2.2.1
@[simp] theorem Env.exchange_nPages : (e.exchange tx level).2.nPages = e.nPages := (e.exchange_frame tx level).2.2.2.1
theorem Env.exchange_outside (h : e.outside = true) : (e.exchange tx level).2.outside = true :=
  (e.exchange_frame tx level).2.2.2.2 h

@[simp] theorem Env.sleep_outside (d : Nat) : (e.sleep d level).outside = e.outside := by
  unfold Env.sleep; split <;> try split
  all_goals rfl
@[simp] theorem Env.sleep_present (d : Nat) : (e.sleep d level).present = e.present := by
  unfold Env.sleep; split <;> try split
  all_goals rfl
@[simp] theorem Env.sleep_devId (d : Nat) : (e.sleep d level).devId = e.devId := by
  unfold Env.sleep; split <;> try split
  all_goals rfl
@[simp] theorem Env.sleep_nPages (d : Nat) : (e.sleep d level).nPages = e.nPages := by
  unfold Env.sleep; split <;> try split
  all_goals rfl

/-- A settling delay leaves the memory as it is, or stores the scratchpad at the address that the copy is armed for (R68). -/
theorem Env.sleep_mem (d : Nat) :
    (e.sleep d level).mem = e.mem ∨
      ∃ (a : Word) (sp : Scratchpad), e.armed = some a ∧ e.scratch = some sp ∧
        (e.sleep d level).mem = e.mem.writeBlock a.toNat sp.data.toList := by
  unfold Env.sleep
  split
  · rename_i a sp ha hs
    split
    · exact .inr ⟨a, sp, ha, hs, rfl⟩
    · exact .inl rfl
  · exact .inl rfl

/-- The canonical form survives a settling delay. -/
theorem Env.sleep_mem_wf (d : Nat) (h : e.mem.wf = true) : (e.sleep d level).mem.wf = true := by
  rcases e.sleep_mem level d with h' | ⟨a, sp, -, -, h'⟩
  · rw [h']; exact h
  · rw [h']; exact Memory.writeBlock_wf _ _ h

/-! ### What a selected device sees of PIOC's frames (R65, R67, R68) -/

theorem deviceFrame_wWsp (a : Word) (d : Bytes 32) : deviceFrame (encode (.wWsp a d)) = some (.wWsp a d) := by
  have h1 : cmdWsp ≠ cmdRead := by decide
  have h2 : (d.toList ++ [fill, fill]).drop 32 = [fill, fill] := by rw [List.drop_left' (by simp)]
  have hd : decode .wmem (encode (.wWsp a d)) = .ok (.wWsp a d) := by
    simp [decode, encode, decodeMemFrame, h1, h2, toBytes_append]
  simp [deviceFrame, hd]

theorem deviceFrame_wCopy (a : Word) : deviceFrame (encode (.wCopy a)) = some (.wCopy a) := by
  have h1 : cmdCopy ≠ cmdRead := by decide
  have h2 : cmdCopy ≠ cmdWsp := by decide
  simp [deviceFrame, decode, encode, decodeMemFrame, h1, h2]

theorem deviceFrame_wMatch (v : Bytes 8) : deviceFrame (encode (.wMatch v)) = none := by
  have h1 : cmdMatch ≠ cmdRead := by decide
  have h2 : cmdMatch ≠ cmdWsp := by decide
  obtain ⟨⟨l⟩, hl⟩ := v
  match l, hl with
  | [_, _, _, _, _, _, _, _], _ =>
    simp only [deviceFrame, decode, encode, decodeMemFrame, h1, h2, Vector.toList, if_false]
    split <;> rename_i h <;> split at h <;> simp_all

theorem deviceFrame_wReadc : deviceFrame (encode .wReadc) = none := by decide +kernel

theorem deviceFrame_wAuth : deviceFrame (encode .wAuth) = none := by decide

/-! ### What a frame does to the device (R64 to R68) -/

variable {s : State} {e : Env}

/-- A frame that is loaded and exchanged: its bytes reach the device, and the answer comes back (R50, R64 to R68). -/
theorem exchange_loadFrame_env (q : Seq) (l : List Byte) {n : Nat} (hn : l.length = n) (h : n ≤ 37)
    (he : s.env = some e) :
    (exchange n (setSeq q (loadFrame l s))).env = some (e.exchange l s.busPower).2 ∧
      (exchange n (setSeq q (loadFrame l s))).trace = s.trace ++ [.xch l (received l s)] := by
  subst hn
  have ht : (setSeq q (loadFrame l s)).tb.toList.take l.length = l := loadFrame_tb_take s h
  refine ⟨?_, ?_⟩
  · rw [exchange_env, ht]
    simp [he]
  · rw [exchange_trace, ht]
    rfl

theorem frameMatch_env (v : Bytes 8) (he : s.env = some e) :
    (frameMatch v s).env = some (e.exchange (encode (.wMatch v)) s.busPower).2 ∧
      (frameMatch v s).trace = s.trace ++ [.xch (encode (.wMatch v)) (received (encode (.wMatch v)) s)] :=
  exchange_loadFrame_env (s := setSeq .selMatch s) .selMatch _ (encode_wMatch_length v) (by omega) he

theorem frameRead_env (a : Word) (he : s.env = some e) :
    (frameRead a s).env = some (e.exchange (encode (.wRead a)) s.busPower).2 ∧
      (frameRead a s).trace = s.trace ++ [.xch (encode (.wRead a)) (received (encode (.wRead a)) s)] :=
  exchange_loadFrame_env (s := foldBytes [cmdRead, lo8 a, hi8 a] (setSeq .rdHdr s)) .rdXchg _ (encode_wRead_length a) (by omega) he

theorem frameReadc_env (he : s.env = some e) :
    (frameReadc s).env = some (e.exchange (encode .wReadc) s.busPower).2 ∧
      (frameReadc s).trace = s.trace ++ [.xch (encode .wReadc) (received (encode .wReadc) s)] :=
  exchange_loadFrame_env (s := setSeq .rdHdr s) .rdXchg _ encode_wReadc_length (by omega) he

theorem frameWsp_env (a : Word) (d : Bytes 32) (he : s.env = some e) :
    (frameWsp a d s).env = some (e.exchange (encode (.wWsp a d)) s.busPower).2 ∧
      (frameWsp a d s).trace = s.trace ++ [.xch (encode (.wWsp a d)) (received (encode (.wWsp a d)) s)] :=
  exchange_loadFrame_env (s := foldBytes (cmdWsp :: lo8 a :: hi8 a :: d.toList) (setSeq .wsBuild s)) .wsXchg _ (encode_wWsp_length a d) (by omega) he

theorem frameCopy_env (a : Word) (he : s.env = some e) :
    (frameCopy a s).env = some (e.exchange (encode (.wCopy a)) s.busPower).2 ∧
      (frameCopy a s).trace = s.trace ++ [.xch (encode (.wCopy a)) (received (encode (.wCopy a)) s)] :=
  exchange_loadFrame_env (s := setSeq .cpCmd s) .cpCmd _ (encode_wCopy_length a) (by omega) he

theorem frameAuth_env (he : s.env = some e) :
    (frameAuth s).env = some (e.exchange (encode .wAuth) s.busPower).2 ∧
      (frameAuth s).trace = s.trace ++ [.xch (encode .wAuth) (received (encode .wAuth) s)] :=
  exchange_loadFrame_env (s := setSeq .cpAuth s) .cpAuth _ encode_wAuth_length (by omega) he

/-! ### The device behind the state -/

/-- The device's memory, where there is a reference environment. -/
def State.mem? (s : State) : Option Memory := s.env.map Env.mem

theorem State.mem?_eq {s : State} {e : Env} (h : s.env = some e) : s.mem? = some e.mem := by simp [State.mem?, h]

variable (s)

@[simp] theorem busReset_mem? : (busReset s).2.mem? = s.mem? := by
  simp only [State.mem?, busReset_env]; cases s.env <;> simp
@[simp] theorem exchange_mem? (n : Nat) : (exchange n s).mem? = s.mem? := by
  simp only [State.mem?, exchange_env]; cases s.env <;> simp
@[simp] theorem readByte_mem? : (readByte s).mem? = s.mem? := by simp [State.mem?]
@[simp] theorem setSeq_mem? (q : Seq) : (setSeq q s).mem? = s.mem? := rfl
@[simp] theorem clearAcc_mem? : (clearAcc s).mem? = s.mem? := rfl
@[simp] theorem foldBytes_mem? (l : List Byte) : (foldBytes l s).mem? = s.mem? := rfl
@[simp] theorem loadFrame_mem? (l : List Byte) : (loadFrame l s).mem? = s.mem? := rfl
@[simp] theorem setPower_mem? (p : PowerLevel) : (setPower p s).mem? = s.mem? := rfl
@[simp] theorem setPresent_mem? (p : Bool) : (setPresent p s).mem? = s.mem? := rfl
@[simp] theorem setWState_mem? (w : WState) : (setWState w s).mem? = s.mem? := rfl
@[simp] theorem clearRvalid_mem? : (clearRvalid s).mem? = s.mem? := rfl
@[simp] theorem storeData_mem? (d : Bytes 32) : (storeData d s).mem? = s.mem? := rfl
@[simp] theorem fail_mem? (c : Status) : (fail c s).mem? = s.mem? := rfl
@[simp] theorem done_mem? (r : HostResult) : (done r s).mem? = s.mem? := rfl
@[simp] theorem endCrc_mem? (r : HostResult) : (endCrc r s).mem? = s.mem? := rfl
@[simp] theorem accept_mem? (b : Byte) : (accept b s).mem? = s.mem? := rfl
@[simp] theorem enterRead_mem? : (enterRead s).mem? = s.mem? := rfl
@[simp] theorem enterScratch_mem? : (enterScratch s).mem? = s.mem? := rfl
@[simp] theorem probe_mem? : (probe s).2.mem? = s.mem? := by simp [probe]
@[simp] theorem frameMatch_mem? (v : Bytes 8) : (frameMatch v s).mem? = s.mem? := by simp [frameMatch, matchCall]
@[simp] theorem frameRead_mem? (a : Word) : (frameRead a s).mem? = s.mem? := by simp [frameRead, readCall]
@[simp] theorem frameReadc_mem? : (frameReadc s).mem? = s.mem? := by simp [frameReadc, readcCall]
@[simp] theorem frameWsp_mem? (a : Word) (d : Bytes 32) : (frameWsp a d s).mem? = s.mem? := by simp [frameWsp, wspCall]
@[simp] theorem frameCopy_mem? (a : Word) : (frameCopy a s).mem? = s.mem? := by simp [frameCopy, copyCall]
@[simp] theorem frameAuth_mem? : (frameAuth s).mem? = s.mem? := by simp [frameAuth, authCall]
@[simp] theorem select_mem? : (select s).2.mem? = s.mem? := by simp only [select]; split <;> simp
@[simp] theorem powerOn_mem? : (powerOn s).mem? = s.mem? := by simp [powerOn]
@[simp] theorem powerOff_mem? : (powerOff s).mem? = s.mem? := by simp [powerOff]
@[simp] theorem confirm_mem? : (confirm s).mem? = s.mem? := by simp [confirm]

end Sys2Proof.Machine
end

