-- ==== Sys2Proof/Laws/Operations.lean ====
section
/-! SUPPORT. The two ends of a read, the two phases of a write, and the paths of WRITE_PAGE, said once each. -/

namespace Sys2Proof.Machine

variable (s : State)

/-! ### The answer of a selection depends on the oracle and the environment alone -/

theorem busReset_fst_congr {s t : State} (he : t.env = s.env) (ho : t.oracle = s.oracle) :
    (busReset t).1 = (busReset s).1 := by
  simp only [busReset, he, ho]; cases s.env <;> rfl

@[simp] theorem busReset_clearRvalid_fst : (busReset (clearRvalid s)).1 = (busReset s).1 := busReset_fst_congr rfl rfl
@[simp] theorem busReset_setWState_fst (w : WState) : (busReset (setWState w s)).1 = (busReset s).1 :=
  busReset_fst_congr rfl rfl

theorem select_fst_eq : (select s).1 = (busReset s).1 := by rw [select_fst, probe_fst]

@[simp] theorem select_mk : ((select s).1, (select s).2) = select s := rfl

theorem valid_iff : s.valid = true ↔ s.acc = 0xB001 := by simp [State.valid, residue]

@[simp] theorem setSeq_valid (q : Seq) : (setSeq q s).valid = s.valid := rfl

/-! ### The end of a read (R110 to R112) -/

theorem finishRead_of_valid (k : Nat) (h : s.acc = 0xB001) :
    finishRead k s =
      done (.data (toBytes 32 ((s.tb.toList.drop k).take 32)))
        (storeData (toBytes 32 ((s.tb.toList.drop k).take 32)) (setSeq .rdCheck s)) := by
  have hv : s.valid = true := (valid_iff s).mpr h
  simp only [finishRead, setSeq_valid, hv, if_true, setSeq_tb]

theorem finishRead_of_invalid (k : Nat) (h : s.acc ≠ 0xB001) :
    finishRead k s = fail .integrityMismatch (setSeq .rdCheck s) := by
  have hv : s.valid = false := by rw [← Bool.not_eq_true, valid_iff]; exact h
  simp [finishRead, hv]

@[simp] theorem finishRead_acc (k : Nat) : (finishRead k s).acc = s.acc := by simp only [finishRead]; split <;> rfl
@[simp] theorem finishRead_id (k : Nat) : (finishRead k s).id = s.id := by simp only [finishRead]; split <;> rfl
@[simp] theorem finishRead_tb (k : Nat) : (finishRead k s).tb = s.tb := by simp only [finishRead]; split <;> rfl
@[simp] theorem finishRead_tbLen (k : Nat) : (finishRead k s).tbLen = s.tbLen := by simp only [finishRead]; split <;> rfl
@[simp] theorem finishRead_wstate (k : Nat) : (finishRead k s).wstate = s.wstate := by simp only [finishRead]; split <;> rfl
@[simp] theorem finishRead_opc (k : Nat) : (finishRead k s).opc = s.opc := by simp only [finishRead]; split <;> rfl
@[simp] theorem finishRead_argCont (k : Nat) : (finishRead k s).argCont = s.argCont := by simp only [finishRead]; split <;> rfl
@[simp] theorem finishRead_argPidx (k : Nat) : (finishRead k s).argPidx = s.argPidx := by simp only [finishRead]; split <;> rfl
@[simp] theorem finishRead_argAddr (k : Nat) : (finishRead k s).argAddr = s.argAddr := by simp only [finishRead]; split <;> rfl
@[simp] theorem finishRead_argByte (k : Nat) : (finishRead k s).argByte = s.argByte := by simp only [finishRead]; split <;> rfl
@[simp] theorem finishRead_wdata (k : Nat) : (finishRead k s).wdata = s.wdata := by simp only [finishRead]; split <;> rfl
@[simp] theorem finishRead_conf (k : Nat) : (finishRead k s).conf = s.conf := by simp only [finishRead]; split <;> rfl
@[simp] theorem finishRead_present (k : Nat) : (finishRead k s).present = s.present := by simp only [finishRead]; split <;> rfl
@[simp] theorem finishRead_busPower (k : Nat) : (finishRead k s).busPower = s.busPower := by simp only [finishRead]; split <;> rfl
@[simp] theorem finishRead_trace (k : Nat) : (finishRead k s).trace = s.trace := by simp only [finishRead]; split <;> rfl
@[simp] theorem finishRead_oracle (k : Nat) : (finishRead k s).oracle = s.oracle := by simp only [finishRead]; split <;> rfl
@[simp] theorem finishRead_env (k : Nat) : (finishRead k s).env = s.env := by simp only [finishRead]; split <;> rfl
@[simp] theorem finishRead_hangAt (k : Nat) : (finishRead k s).hangAt = s.hangAt := by simp only [finishRead]; split <;> rfl
@[simp] theorem finishRead_inbox (k : Nat) : (finishRead k s).inbox = s.inbox := by simp only [finishRead]; split <;> rfl
@[simp] theorem finishRead_busy (k : Nat) : (finishRead k s).busy = false := by simp only [finishRead]; split <;> rfl
@[simp] theorem finishRead_seq (k : Nat) : (finishRead k s).seq = .idle := by simp only [finishRead]; split <;> rfl
@[simp] theorem finishRead_mem? (k : Nat) : (finishRead k s).mem? = s.mem? := by simp [State.mem?]

/-! ### The end of a phase (R120, R122, R124) -/

theorem finishPhase_ok : finishPhase (.ok, s) = done .success s := rfl
theorem finishPhase_of_ne {c : Status} (h : c ≠ .ok) : finishPhase (c, s) = fail c s := by simp [finishPhase, h]

@[simp] theorem finishPhase_acc (r : Status × State) : (finishPhase r).acc = r.2.acc := by simp only [finishPhase]; split <;> rfl
@[simp] theorem finishPhase_id (r : Status × State) : (finishPhase r).id = r.2.id := by simp only [finishPhase]; split <;> rfl
@[simp] theorem finishPhase_tb (r : Status × State) : (finishPhase r).tb = r.2.tb := by simp only [finishPhase]; split <;> rfl
@[simp] theorem finishPhase_tbLen (r : Status × State) : (finishPhase r).tbLen = r.2.tbLen := by simp only [finishPhase]; split <;> rfl
@[simp] theorem finishPhase_wstate (r : Status × State) : (finishPhase r).wstate = r.2.wstate := by simp only [finishPhase]; split <;> rfl
@[simp] theorem finishPhase_opc (r : Status × State) : (finishPhase r).opc = r.2.opc := by simp only [finishPhase]; split <;> rfl
@[simp] theorem finishPhase_argCont (r : Status × State) : (finishPhase r).argCont = r.2.argCont := by simp only [finishPhase]; split <;> rfl
@[simp] theorem finishPhase_argPidx (r : Status × State) : (finishPhase r).argPidx = r.2.argPidx := by simp only [finishPhase]; split <;> rfl
@[simp] theorem finishPhase_argAddr (r : Status × State) : (finishPhase r).argAddr = r.2.argAddr := by simp only [finishPhase]; split <;> rfl
@[simp] theorem finishPhase_argByte (r : Status × State) : (finishPhase r).argByte = r.2.argByte := by simp only [finishPhase]; split <;> rfl
@[simp] theorem finishPhase_wdata (r : Status × State) : (finishPhase r).wdata = r.2.wdata := by simp only [finishPhase]; split <;> rfl
@[simp] theorem finishPhase_rdata (r : Status × State) : (finishPhase r).rdata = r.2.rdata := by simp only [finishPhase]; split <;> rfl
@[simp] theorem finishPhase_conf (r : Status × State) : (finishPhase r).conf = r.2.conf := by simp only [finishPhase]; split <;> rfl
@[simp] theorem finishPhase_present (r : Status × State) : (finishPhase r).present = r.2.present := by simp only [finishPhase]; split <;> rfl
@[simp] theorem finishPhase_busPower (r : Status × State) : (finishPhase r).busPower = r.2.busPower := by simp only [finishPhase]; split <;> rfl
@[simp] theorem finishPhase_trace (r : Status × State) : (finishPhase r).trace = r.2.trace := by simp only [finishPhase]; split <;> rfl
@[simp] theorem finishPhase_oracle (r : Status × State) : (finishPhase r).oracle = r.2.oracle := by simp only [finishPhase]; split <;> rfl
@[simp] theorem finishPhase_env (r : Status × State) : (finishPhase r).env = r.2.env := by simp only [finishPhase]; split <;> rfl
@[simp] theorem finishPhase_hangAt (r : Status × State) : (finishPhase r).hangAt = r.2.hangAt := by simp only [finishPhase]; split <;> rfl
@[simp] theorem finishPhase_inbox (r : Status × State) : (finishPhase r).inbox = r.2.inbox := by simp only [finishPhase]; split <;> rfl
@[simp] theorem finishPhase_busy (r : Status × State) : (finishPhase r).busy = false := by
  simp only [finishPhase]; split <;> rfl
@[simp] theorem finishPhase_seq (r : Status × State) : (finishPhase r).seq = .idle := by
  simp only [finishPhase]; split <;> rfl
@[simp] theorem finishPhase_status (r : Status × State) : (finishPhase r).status = r.1 := by
  simp only [finishPhase]; split <;> simp_all
theorem finishPhase_rvalid (r : Status × State) : (finishPhase r).rvalid = if r.1 = .ok then r.2.rvalid else false := by
  simp only [finishPhase]; split <;> rfl
theorem finishPhase_result (r : Status × State) :
    (finishPhase r).result = if r.1 = .ok then .success else .failure r.1 := by
  simp only [finishPhase]; split <;> rfl
@[simp] theorem finishPhase_mem? (r : Status × State) : (finishPhase r).mem? = r.2.mem? := by simp [State.mem?]

/-! ### Phase 1 (R120) -/

theorem phase1_absent (a : Word) (d : Bytes 32) (h : (busReset s).1 = false) :
    phase1 a d s = (.deviceAbsent, (select s).2) := by
  simp [phase1, select_fst_eq, h]

theorem phase1_present (a : Word) (d : Bytes 32) (h : (busReset s).1 = true) :
    phase1 a d s =
      (scratchCode (frameWsp a d (enterScratch (select s).2)),
        setSeq .wsCheck (frameWsp a d (enterScratch (select s).2))) := by
  simp only [phase1, select_fst_eq, h, if_true]; rfl

@[simp] theorem phase1_id (a : Word) (d : Bytes 32) : ((phase1 a d s).2).id = s.id := by simp only [phase1]; split <;> simp
@[simp] theorem phase1_wstate (a : Word) (d : Bytes 32) : ((phase1 a d s).2).wstate = s.wstate := by simp only [phase1]; split <;> simp
@[simp] theorem phase1_opc (a : Word) (d : Bytes 32) : ((phase1 a d s).2).opc = s.opc := by simp only [phase1]; split <;> simp
@[simp] theorem phase1_argCont (a : Word) (d : Bytes 32) : ((phase1 a d s).2).argCont = s.argCont := by simp only [phase1]; split <;> simp
@[simp] theorem phase1_argPidx (a : Word) (d : Bytes 32) : ((phase1 a d s).2).argPidx = s.argPidx := by simp only [phase1]; split <;> simp
@[simp] theorem phase1_argAddr (a : Word) (d : Bytes 32) : ((phase1 a d s).2).argAddr = s.argAddr := by simp only [phase1]; split <;> simp
@[simp] theorem phase1_argByte (a : Word) (d : Bytes 32) : ((phase1 a d s).2).argByte = s.argByte := by simp only [phase1]; split <;> simp
@[simp] theorem phase1_wdata (a : Word) (d : Bytes 32) : ((phase1 a d s).2).wdata = s.wdata := by simp only [phase1]; split <;> simp
@[simp] theorem phase1_status (a : Word) (d : Bytes 32) : ((phase1 a d s).2).status = s.status := by simp only [phase1]; split <;> simp
@[simp] theorem phase1_rdata (a : Word) (d : Bytes 32) : ((phase1 a d s).2).rdata = s.rdata := by simp only [phase1]; split <;> simp
@[simp] theorem phase1_rvalid (a : Word) (d : Bytes 32) : ((phase1 a d s).2).rvalid = s.rvalid := by simp only [phase1]; split <;> simp
@[simp] theorem phase1_conf (a : Word) (d : Bytes 32) : ((phase1 a d s).2).conf = s.conf := by simp only [phase1]; split <;> simp
@[simp] theorem phase1_busy (a : Word) (d : Bytes 32) : ((phase1 a d s).2).busy = s.busy := by simp only [phase1]; split <;> simp
@[simp] theorem phase1_busPower (a : Word) (d : Bytes 32) : ((phase1 a d s).2).busPower = s.busPower := by simp only [phase1]; split <;> simp
@[simp] theorem phase1_hangAt (a : Word) (d : Bytes 32) : ((phase1 a d s).2).hangAt = s.hangAt := by simp only [phase1]; split <;> simp
@[simp] theorem phase1_result (a : Word) (d : Bytes 32) : ((phase1 a d s).2).result = s.result := by simp only [phase1]; split <;> simp
@[simp] theorem phase1_inbox (a : Word) (d : Bytes 32) : ((phase1 a d s).2).inbox = s.inbox := by simp only [phase1]; split <;> simp
@[simp] theorem phase1_present_eq (a : Word) (d : Bytes 32) : (phase1 a d s).2.present = (busReset s).1 := by
  simp only [phase1]; split <;> simp [select_present, select_fst_eq]
@[simp] theorem phase1_mem? (a : Word) (d : Bytes 32) : (phase1 a d s).2.mem? = s.mem? := by
  simp only [phase1]; split <;> simp

/-- Phase 1 with a device present: its two frames, what it folds, and its code (R120, R121). -/
theorem phase1_spec (a : Word) (d : Bytes 32) (h : (busReset s).1 = true) :
    ∃ (m rx : List Byte) (c0 c1 : Byte), m.length = 9 ∧ rx.length = 35 ∧
      (phase1 a d s).2.trace = s.trace ++ selectEvents s m ++ [.xch (scratchFrame a d) (rx ++ [c0, c1])] ∧
      (phase1 a d s).2.acc = crc16Fold (scratchAcc a d) [c0, c1] ∧
      (phase1 a d s).2.tbLen = 37 ∧
      (phase1 a d s).1 = if (phase1 a d s).2.acc = 0xB001 then .ok else .integrityMismatch := by
  obtain ⟨-, -, m, hm, ht, -⟩ := select_present_spec s h
  obtain ⟨rx, c0, c1, hl, ht', -, ha⟩ := frameWsp_spec (enterScratch (select s).2) a d
  refine ⟨m, rx, c0, c1, hm, hl, ?_, ?_, ?_, ?_⟩
  · rw [phase1_present s a d h, setSeq_trace, ht', enterScratch_trace, ht]
  · rw [phase1_present s a d h, setSeq_acc, ha, enterScratch_acc, scratchAcc]
  · simp [phase1_present s a d h]
  · simp only [phase1_present s a d h, scratchCode, valid_iff, setSeq_acc]

/-! ### Phase 2 (R122) -/

/-- The part of Phase 2 that follows its selection (R122). -/
theorem phase2_absent (a : Word) (h : (busReset s).1 = false) : phase2 a s = (.deviceAbsent, (select s).2) := by
  simp [phase2, select_fst_eq, h]

theorem phase2_present (a : Word) (h : (busReset s).1 = true) :
    phase2 a s =
      (copyCode (confirm (powerOff (waitSettle (frameAuth (powerOn (frameCopy a (select s).2)))))),
        setSeq .cpCheck (confirm (powerOff (waitSettle (frameAuth (powerOn (frameCopy a (select s).2))))))) := by
  simp only [phase2, select_fst_eq, h, if_true]; rfl

@[simp] theorem phase2_acc (a : Word) : ((phase2 a s).2).acc = s.acc := by
  simp only [phase2]; split <;> simp [confirm, powerOff, waitSettle, powerOn]
@[simp] theorem phase2_id (a : Word) : ((phase2 a s).2).id = s.id := by
  simp only [phase2]; split <;> simp [confirm, powerOff, waitSettle, powerOn]
@[simp] theorem phase2_wstate (a : Word) : ((phase2 a s).2).wstate = s.wstate := by
  simp only [phase2]; split <;> simp [confirm, powerOff, waitSettle, powerOn]
@[simp] theorem phase2_opc (a : Word) : ((phase2 a s).2).opc = s.opc := by
  simp only [phase2]; split <;> simp [confirm, powerOff, waitSettle, powerOn]
@[simp] theorem phase2_argCont (a : Word) : ((phase2 a s).2).argCont = s.argCont := by
  simp only [phase2]; split <;> simp [confirm, powerOff, waitSettle, powerOn]
@[simp] theorem phase2_argPidx (a : Word) : ((phase2 a s).2).argPidx = s.argPidx := by
  simp only [phase2]; split <;> simp [confirm, powerOff, waitSettle, powerOn]
@[simp] theorem phase2_argAddr (a : Word) : ((phase2 a s).2).argAddr = s.argAddr := by
  simp only [phase2]; split <;> simp [confirm, powerOff, waitSettle, powerOn]
@[simp] theorem phase2_argByte (a : Word) : ((phase2 a s).2).argByte = s.argByte := by
  simp only [phase2]; split <;> simp [confirm, powerOff, waitSettle, powerOn]
@[simp] theorem phase2_wdata (a : Word) : ((phase2 a s).2).wdata = s.wdata := by
  simp only [phase2]; split <;> simp [confirm, powerOff, waitSettle, powerOn]
@[simp] theorem phase2_status (a : Word) : ((phase2 a s).2).status = s.status := by
  simp only [phase2]; split <;> simp [confirm, powerOff, waitSettle, powerOn]
@[simp] theorem phase2_rdata (a : Word) : ((phase2 a s).2).rdata = s.rdata := by
  simp only [phase2]; split <;> simp [confirm, powerOff, waitSettle, powerOn]
@[simp] theorem phase2_rvalid (a : Word) : ((phase2 a s).2).rvalid = s.rvalid := by
  simp only [phase2]; split <;> simp [confirm, powerOff, waitSettle, powerOn]
@[simp] theorem phase2_busy (a : Word) : ((phase2 a s).2).busy = s.busy := by
  simp only [phase2]; split <;> simp [confirm, powerOff, waitSettle, powerOn]
@[simp] theorem phase2_hangAt (a : Word) : ((phase2 a s).2).hangAt = s.hangAt := by
  simp only [phase2]; split <;> simp [confirm, powerOff, waitSettle, powerOn]
@[simp] theorem phase2_result (a : Word) : ((phase2 a s).2).result = s.result := by
  simp only [phase2]; split <;> simp [confirm, powerOff, waitSettle, powerOn]
@[simp] theorem phase2_inbox (a : Word) : ((phase2 a s).2).inbox = s.inbox := by
  simp only [phase2]; split <;> simp [confirm, powerOff, waitSettle, powerOn]
@[simp] theorem phase2_present_eq (a : Word) : (phase2 a s).2.present = (busReset s).1 := by
  simp only [phase2]; split <;> simp [select_present, select_fst_eq, confirm, powerOff, waitSettle, powerOn]

/-- Phase 2 with a device present: its events, and that the confirmation byte alone decides (R122, R123, R128). -/
theorem phase2_spec (a : Word) (h : (busReset s).1 = true) :
    ∃ m r3 r1 : List Byte, m.length = 9 ∧ r3.length = 3 ∧ r1.length = 1 ∧
      (phase2 a s).2.trace = s.trace ++ selectEvents s m ++ copyEvents a r3 r1 (phase2 a s).2.conf ∧
      (phase2 a s).2.busPower = .standard ∧ (phase2 a s).2.tbLen = 1 ∧
      (phase2 a s).1 =
        if (phase2 a s).2.conf = 0x55 ∨ (phase2 a s).2.conf = 0xAA then .ok else .commitAmbiguous := by
  obtain ⟨-, -, m, hm, ht, -⟩ := select_present_spec s h
  obtain ⟨r3, r1, h3, h1, hc⟩ := copy_spec (select s).2 a
  refine ⟨m, r3, r1, hm, h3, h1, ?_, ?_, ?_, ?_⟩
  · rw [phase2_present s a h]
    simp only [setSeq_trace, setSeq_conf, hc, ht]
  · simp [phase2_present s a h, confirm, powerOff]
  · simp [phase2_present s a h, confirm, powerOff, waitSettle]
  · simp only [phase2_present s a h, copyCode, confOk, setSeq_conf, Bool.or_eq_true, beq_iff_eq]

/-! ### The bus power level (R31, R129) -/

/-- Phase 2 without a device does not touch the power level, with one it ends at `standard`. -/
theorem phase2_busPower (a : Word) (h : s.busPower = .standard) : (phase2 a s).2.busPower = .standard := by
  cases hp : (busReset s).1 with
  | true => exact (phase2_spec s a hp).choose_spec.choose_spec.choose_spec.2.2.2.2.1
  | false => simp [phase2_absent s a hp, h]

/-! ### The environment never comes back into its definition -/

@[simp] theorem setSeq_envOutside (q : Seq) : (setSeq q s).envOutside = s.envOutside := rfl
@[simp] theorem clearAcc_envOutside : (clearAcc s).envOutside = s.envOutside := rfl
@[simp] theorem foldBytes_envOutside (l : List Byte) : (foldBytes l s).envOutside = s.envOutside := rfl
@[simp] theorem loadFrame_envOutside (l : List Byte) : (loadFrame l s).envOutside = s.envOutside := rfl
@[simp] theorem setPower_envOutside (p : PowerLevel) : (setPower p s).envOutside = s.envOutside := rfl
@[simp] theorem setPresent_envOutside (p : Bool) : (setPresent p s).envOutside = s.envOutside := rfl
@[simp] theorem setWState_envOutside (w : WState) : (setWState w s).envOutside = s.envOutside := rfl
@[simp] theorem clearRvalid_envOutside : (clearRvalid s).envOutside = s.envOutside := rfl
@[simp] theorem storeData_envOutside (d : Bytes 32) : (storeData d s).envOutside = s.envOutside := rfl
@[simp] theorem fail_envOutside (c : Status) : (fail c s).envOutside = s.envOutside := rfl
@[simp] theorem done_envOutside (r : HostResult) : (done r s).envOutside = s.envOutside := rfl
@[simp] theorem finishPhase_envOutside (r : Status × State) : (finishPhase r).envOutside = r.2.envOutside := by
  simp only [finishPhase]; split <;> rfl
@[simp] theorem finishRead_envOutside (k : Nat) : (finishRead k s).envOutside = s.envOutside := by
  simp only [finishRead]; split <;> rfl
@[simp] theorem readByte_envOutside : (readByte s).envOutside = s.envOutside := by simp [State.envOutside]
@[simp] theorem busReset_envOutside : (busReset s).2.envOutside = s.envOutside := by
  simp only [State.envOutside, busReset_env]; cases s.env <;> simp
@[simp] theorem settle_envOutside : (settle s).envOutside = s.envOutside := by
  simp only [State.envOutside, settle_env]; cases s.env <;> simp

/-- An `Xchg` after which the environment is inside its definition began inside it. -/
theorem exchange_envOutside {n : Nat} (h : (exchange n s).envOutside = false) : s.envOutside = false := by
  simp only [State.envOutside, exchange_env] at h ⊢
  cases he : s.env with
  | none => rfl
  | some e =>
    rw [he, Option.map_some] at h
    by_contra ho
    rw [Bool.not_eq_false] at ho
    exact Bool.noConfusion (h.symm.trans (Env.exchange_outside _ _ _ ho))

theorem frameMatch_envOutside {v : Bytes 8} (h : (frameMatch v s).envOutside = false) : s.envOutside = false := by
  simpa [matchCall] using exchange_envOutside _ h
theorem frameWsp_envOutside {a : Word} {d : Bytes 32} (h : (frameWsp a d s).envOutside = false) :
    s.envOutside = false := by
  simp only [frameWsp, wspCall, foldBytes_envOutside, setSeq_envOutside] at h
  simpa using exchange_envOutside _ h
theorem frameCopy_envOutside {a : Word} (h : (frameCopy a s).envOutside = false) : s.envOutside = false := by
  simpa [copyCall] using exchange_envOutside _ h
theorem frameAuth_envOutside (h : (frameAuth s).envOutside = false) : s.envOutside = false := by
  simpa [authCall] using exchange_envOutside _ h

theorem select_envOutside (h : (select s).2.envOutside = false) : s.envOutside = false := by
  simp only [select] at h
  split at h
  · simpa [probe] using frameMatch_envOutside _ h
  · simpa [probe] using h

theorem phase2_envOutside {a : Word} (h : (phase2 a s).2.envOutside = false) : s.envOutside = false := by
  simp only [phase2] at h
  split at h
  · have h1 := frameAuth_envOutside _ (by simpa [confirm, powerOff, waitSettle] using h)
    exact select_envOutside s (frameCopy_envOutside _ (by simpa [powerOn] using h1))
  · exact select_envOutside s h

/-! ### The paths of WRITE_PAGE (R124, R125) -/

theorem writePage_of_phase1_fail (h : (phase1 (pageAddr s.argPidx) s.wdata (setWState .idle s)).1 ≠ .ok) :
    writePage s =
      fail (phase1 (pageAddr s.argPidx) s.wdata (setWState .idle s)).1
        (setWState .aborted (phase1 (pageAddr s.argPidx) s.wdata (setWState .idle s)).2) := by
  simp [writePage, h]

theorem writePage_of_phase1_ok (h : (phase1 (pageAddr s.argPidx) s.wdata (setWState .idle s)).1 = .ok) :
    writePage s =
      commitStaged (pageAddr s.argPidx) (phase1 (pageAddr s.argPidx) s.wdata (setWState .idle s)).2 := by
  simp [writePage, h]

@[simp] theorem commitStaged_acc (a : Word) : (commitStaged a s).acc = s.acc := by simp [commitStaged]
@[simp] theorem commitStaged_id (a : Word) : (commitStaged a s).id = s.id := by simp [commitStaged]
@[simp] theorem commitStaged_opc (a : Word) : (commitStaged a s).opc = s.opc := by simp [commitStaged]
@[simp] theorem commitStaged_argCont (a : Word) : (commitStaged a s).argCont = s.argCont := by simp [commitStaged]
@[simp] theorem commitStaged_argPidx (a : Word) : (commitStaged a s).argPidx = s.argPidx := by simp [commitStaged]
@[simp] theorem commitStaged_argAddr (a : Word) : (commitStaged a s).argAddr = s.argAddr := by simp [commitStaged]
@[simp] theorem commitStaged_argByte (a : Word) : (commitStaged a s).argByte = s.argByte := by simp [commitStaged]
@[simp] theorem commitStaged_wdata (a : Word) : (commitStaged a s).wdata = s.wdata := by simp [commitStaged]
@[simp] theorem commitStaged_rdata (a : Word) : (commitStaged a s).rdata = s.rdata := by simp [commitStaged]
@[simp] theorem commitStaged_hangAt (a : Word) : (commitStaged a s).hangAt = s.hangAt := by simp [commitStaged]
@[simp] theorem commitStaged_inbox (a : Word) : (commitStaged a s).inbox = s.inbox := by simp [commitStaged]
@[simp] theorem writePage_id : (writePage s).id = s.id := by simp only [writePage]; split <;> simp
@[simp] theorem writePage_opc : (writePage s).opc = s.opc := by simp only [writePage]; split <;> simp
@[simp] theorem writePage_argCont : (writePage s).argCont = s.argCont := by simp only [writePage]; split <;> simp
@[simp] theorem writePage_argPidx : (writePage s).argPidx = s.argPidx := by simp only [writePage]; split <;> simp
@[simp] theorem writePage_argAddr : (writePage s).argAddr = s.argAddr := by simp only [writePage]; split <;> simp
@[simp] theorem writePage_argByte : (writePage s).argByte = s.argByte := by simp only [writePage]; split <;> simp
@[simp] theorem writePage_wdata : (writePage s).wdata = s.wdata := by simp only [writePage]; split <;> simp
@[simp] theorem writePage_rdata : (writePage s).rdata = s.rdata := by simp only [writePage]; split <;> simp
@[simp] theorem writePage_hangAt : (writePage s).hangAt = s.hangAt := by simp only [writePage]; split <;> simp
@[simp] theorem writePage_inbox : (writePage s).inbox = s.inbox := by simp only [writePage]; split <;> simp

@[simp] theorem writePage_busy : (writePage s).busy = false := by
  simp only [writePage]; split <;> simp [commitStaged]
@[simp] theorem writePage_seq : (writePage s).seq = .idle := by
  simp only [writePage]; split <;> simp [commitStaged]

end Sys2Proof.Machine
end

