-- ==== Sys2Proof/Laws/Agreement.lean ====
section
/-! SUPPORT. Two states that agree on the bus and on what the transport sees do the same transport calls, get the same
answers, and agree afterwards. -/

namespace Sys2Proof.Machine

/-- What a transport call reads or writes, and the registers that only the end of an operation writes. `ACC`, the control
position, the write state machine, the operand latches and the host's side are left out. -/
structure State.Agree (s t : State) : Prop where
  id : t.id = s.id
  tb : t.tb = s.tb
  tbLen : t.tbLen = s.tbLen
  rdata : t.rdata = s.rdata
  rvalid : t.rvalid = s.rvalid
  conf : t.conf = s.conf
  present : t.present = s.present
  busPower : t.busPower = s.busPower
  trace : t.trace = s.trace
  oracle : t.oracle = s.oracle
  env : t.env = s.env

theorem scratchCode_congr {s t : State} (h : t.acc = s.acc) : scratchCode t = scratchCode s := by
  have : t.valid = s.valid := by rw [State.valid, h, State.valid]
  rw [scratchCode, this, scratchCode]

theorem copyCode_congr {s t : State} (h : t.conf = s.conf) : copyCode t = copyCode s := by
  rw [copyCode, h, copyCode]

namespace State.Agree

variable {s t : State}

theorem refl (s : State) : s.Agree s := ⟨rfl, rfl, rfl, rfl, rfl, rfl, rfl, rfl, rfl, rfl, rfl⟩

theorem symm (h : s.Agree t) : t.Agree s :=
  ⟨h.id.symm, h.tb.symm, h.tbLen.symm, h.rdata.symm, h.rvalid.symm, h.conf.symm, h.present.symm, h.busPower.symm,
    h.trace.symm, h.oracle.symm, h.env.symm⟩

theorem trans {u : State} (h : s.Agree t) (g : t.Agree u) : s.Agree u :=
  ⟨g.id.trans h.id, g.tb.trans h.tb, g.tbLen.trans h.tbLen, g.rdata.trans h.rdata, g.rvalid.trans h.rvalid,
    g.conf.trans h.conf, g.present.trans h.present, g.busPower.trans h.busPower, g.trace.trans h.trace,
    g.oracle.trans h.oracle, g.env.trans h.env⟩

/-! ### Updates -/

theorem setSeq (h : s.Agree t) (q q' : Seq) : (setSeq q s).Agree (Machine.setSeq q' t) := ⟨h.1, h.2, h.3, h.4, h.5, h.6, h.7, h.8, h.9, h.10, h.11⟩
theorem setWState (h : s.Agree t) (w w' : WState) : (setWState w s).Agree (Machine.setWState w' t) := ⟨h.1, h.2, h.3, h.4, h.5, h.6, h.7, h.8, h.9, h.10, h.11⟩
theorem clearAcc (h : s.Agree t) : (clearAcc s).Agree (Machine.clearAcc t) := ⟨h.1, h.2, h.3, h.4, h.5, h.6, h.7, h.8, h.9, h.10, h.11⟩
theorem foldBytes (h : s.Agree t) (l l' : List Byte) : (foldBytes l s).Agree (Machine.foldBytes l' t) := ⟨h.1, h.2, h.3, h.4, h.5, h.6, h.7, h.8, h.9, h.10, h.11⟩
theorem clearRvalid (h : s.Agree t) : (clearRvalid s).Agree (Machine.clearRvalid t) := ⟨h.1, h.2, h.3, h.4, rfl, h.6, h.7, h.8, h.9, h.10, h.11⟩
theorem storeData (h : s.Agree t) (d : Bytes 32) : (storeData d s).Agree (Machine.storeData d t) := ⟨h.1, h.2, h.3, rfl, rfl, h.6, h.7, h.8, h.9, h.10, h.11⟩
theorem setPresent (h : s.Agree t) (p : Bool) : (setPresent p s).Agree (Machine.setPresent p t) := ⟨h.1, h.2, h.3, h.4, h.5, h.6, rfl, h.8, h.9, h.10, h.11⟩
theorem done (h : s.Agree t) (r r' : HostResult) : (done r s).Agree (Machine.done r' t) := ⟨h.1, h.2, h.3, h.4, h.5, h.6, h.7, h.8, h.9, h.10, h.11⟩
theorem fail (h : s.Agree t) (c c' : Status) : (fail c s).Agree (Machine.fail c' t) := ⟨h.1, h.2, h.3, h.4, rfl, h.6, h.7, h.8, h.9, h.10, h.11⟩
theorem loadFrame (h : s.Agree t) (l : List Byte) : (loadFrame l s).Agree (Machine.loadFrame l t) :=
  ⟨h.1, by simp [h.tb], rfl, h.4, h.5, h.6, h.7, h.8, h.9, h.10, h.11⟩
theorem setPower (h : s.Agree t) (p : PowerLevel) : (setPower p s).Agree (Machine.setPower p t) :=
  ⟨h.1, h.2, h.3, h.4, h.5, h.6, h.7, rfl, by simp [h.trace], h.10, h.11⟩

/-! ### Transport calls -/

theorem busReset_fst (h : s.Agree t) : (Machine.busReset t).1 = (Machine.busReset s).1 := busReset_fst_congr h.env h.oracle

theorem busReset (h : s.Agree t) : (busReset s).2.Agree (Machine.busReset t).2 := by
  refine ⟨by simp [h.id], by simp [h.tb], by simp [h.tbLen], by simp [h.rdata], by simp [h.rvalid], by simp [h.conf],
    by simp [h.present], by simp [h.busPower], ?_, ?_, ?_⟩
  · simp [busReset_trace, h.trace, h.busReset_fst]
  · cases he : s.env with
    | none => rw [busReset_oracle_of_none _ he, busReset_oracle_of_none _ (h.env.trans he), h.oracle]
    | some e => rw [busReset_oracle_of_some _ he, busReset_oracle_of_some _ (h.env.trans he), h.oracle]
  · rw [busReset_env, busReset_env, h.env]

theorem received (h : s.Agree t) (tx : List Byte) : Machine.received tx t = Machine.received tx s := by
  simp only [Machine.received, h.env, h.oracle, h.busPower]

theorem exchange (h : s.Agree t) (n : Nat) : (exchange n s).Agree (Machine.exchange n t) := by
  refine ⟨by simp [h.id], ?_, by simp [h.tbLen], by simp [h.rdata], by simp [h.rvalid], by simp [h.conf],
    by simp [h.present], by simp [h.busPower], ?_, ?_, ?_⟩
  · simp only [exchange_tb, h.tb, h.received]
  · simp only [exchange_trace, h.tb, h.received, h.trace]
  · cases he : s.env with
    | none => rw [exchange_oracle_of_none _ _ he, exchange_oracle_of_none _ _ (h.env.trans he), h.oracle, h.tb]
    | some e => rw [exchange_oracle_of_some _ _ he, exchange_oracle_of_some _ _ (h.env.trans he), h.oracle, h.tb, h.busPower]
  · rw [exchange_env, exchange_env, h.env, h.tb, h.busPower]

theorem readByte (h : s.Agree t) : (readByte s).Agree (Machine.readByte t) := by
  have hc : (Machine.readByte t).conf = (Machine.readByte s).conf := by
    simp only [Machine.readByte, h.env, h.oracle]; split <;> rfl
  refine ⟨by simp [h.id], by simp [h.tb], by simp [h.tbLen], by simp [h.rdata], by simp [h.rvalid], hc,
    by simp [h.present], by simp [h.busPower], ?_, ?_, by simp [h.env]⟩
  · rw [readByte_trace, readByte_trace, hc, h.trace]
  · simp only [Machine.readByte, h.env, h.oracle]; split <;> rfl

theorem settle (h : s.Agree t) : (settle s).Agree (Machine.settle t) :=
  ⟨h.1, h.2, h.3, h.4, h.5, h.6, h.7, h.8, by simp [h.trace], h.10, by simp [h.env, h.busPower]⟩

/-! ### Selection, frames, phases -/

theorem probe_fst (h : s.Agree t) : (probe t).1 = (probe s).1 := by
  rw [Machine.probe_fst, Machine.probe_fst, h.busReset_fst]

theorem probe (h : s.Agree t) : (probe s).2.Agree (Machine.probe t).2 := by
  have h' := h.setSeq .selReset .selReset
  have := h'.busReset.setPresent (Machine.busReset (Machine.setSeq .selReset s)).1
  simpa only [Machine.probe, h'.busReset_fst] using this

theorem frameMatch (h : s.Agree t) (v : Bytes 8) : (frameMatch v s).Agree (Machine.frameMatch v t) :=
  ((h.setSeq _ _).loadFrame _).exchange _

theorem select_fst (h : s.Agree t) : (select t).1 = (select s).1 := h.probe_fst

theorem select (h : s.Agree t) : (select s).2.Agree (Machine.select t).2 := by
  simp only [Machine.select, h.probe_fst, probe_id, h.id]
  split
  · exact h.probe.frameMatch _
  · exact h.probe

theorem enterRead (h : s.Agree t) : (enterRead s).Agree (Machine.enterRead t) := (h.setSeq _ _).clearAcc
theorem enterScratch (h : s.Agree t) : (enterScratch s).Agree (Machine.enterScratch t) := (h.setSeq _ _).clearAcc

theorem frameRead (h : s.Agree t) (a : Word) : (frameRead a s).Agree (Machine.frameRead a t) :=
  (((((h.setSeq _ _).foldBytes _ _).loadFrame _).setSeq _ _).exchange _).setSeq _ _ |>.foldBytes _ _
theorem frameReadc (h : s.Agree t) : (frameReadc s).Agree (Machine.frameReadc t) :=
  ((((h.setSeq _ _).loadFrame _).setSeq _ _).exchange _).setSeq _ _ |>.foldBytes _ _
theorem frameWsp (h : s.Agree t) (a : Word) (d : Bytes 32) : (frameWsp a d s).Agree (Machine.frameWsp a d t) :=
  (((((h.setSeq _ _).foldBytes _ _).loadFrame _).setSeq _ _).exchange _).setSeq _ _ |>.foldBytes _ _
theorem frameCopy (h : s.Agree t) (a : Word) : (frameCopy a s).Agree (Machine.frameCopy a t) :=
  ((h.setSeq _ _).loadFrame _).exchange _
theorem frameAuth (h : s.Agree t) : (frameAuth s).Agree (Machine.frameAuth t) :=
  ((h.setSeq _ _).loadFrame _).exchange _

/-- The rest of Phase 2 after the copy command (R122). -/
theorem commit (h : s.Agree t) :
    (confirm (powerOff (waitSettle (Machine.frameAuth (powerOn s))))).Agree
      (confirm (powerOff (waitSettle (Machine.frameAuth (powerOn t))))) :=
  ((((((((h.setSeq _ _).setPower _).frameAuth).setSeq _ _).settle).setSeq _ _).setPower _).setSeq _ _).readByte

theorem phase2 (h : s.Agree t) (a : Word) :
    (phase2 a t).1 = (Machine.phase2 a s).1 ∧ (Machine.phase2 a s).2.Agree (Machine.phase2 a t).2 := by
  have hs := h.select
  simp only [Machine.phase2, h.select_fst]
  split
  · have hc := ((hs.frameCopy a).commit).setSeq .cpCheck .cpCheck
    exact ⟨copyCode_congr hc.conf, hc⟩
  · exact ⟨rfl, hs⟩

/-! ### Accumulators: after `ACC <- 0` a frame's fold depends on the bytes alone (R30) -/

theorem frameRead_acc (h : s.Agree t) (ha : t.acc = s.acc) (a : Word) :
    (Machine.frameRead a t).acc = (Machine.frameRead a s).acc := by
  have := (h.frameRead a).tb
  simp only [Machine.frameRead, readCall, foldBytes_tb, setSeq_tb] at this
  simp [Machine.frameRead, readCall, this, ha]

theorem frameReadc_acc (h : s.Agree t) (ha : t.acc = s.acc) : (Machine.frameReadc t).acc = (Machine.frameReadc s).acc := by
  have := h.frameReadc.tb
  simp only [Machine.frameReadc, readcCall, foldBytes_tb, setSeq_tb] at this
  simp [Machine.frameReadc, readcCall, this, ha]

theorem frameWsp_acc (h : s.Agree t) (ha : t.acc = s.acc) (a : Word) (d : Bytes 32) :
    (Machine.frameWsp a d t).acc = (Machine.frameWsp a d s).acc := by
  have := (h.frameWsp a d).tb
  simp only [Machine.frameWsp, wspCall, foldBytes_tb, setSeq_tb] at this
  simp [Machine.frameWsp, wspCall, this, ha]

/-- Phase 1: the same code from any two states that agree; the same accumulator too, if a device is present or both
began with the same. -/
theorem phase1 (h : s.Agree t) (a : Word) (d : Bytes 32) :
    (phase1 a d t).1 = (Machine.phase1 a d s).1 ∧ (Machine.phase1 a d s).2.Agree (Machine.phase1 a d t).2 ∧
      ((Machine.busReset s).1 = true ∨ t.acc = s.acc → (Machine.phase1 a d t).2.acc = (Machine.phase1 a d s).2.acc) := by
  have hs := h.select
  cases hp : (Machine.busReset s).1 with
  | true =>
    have ha := hs.enterScratch.frameWsp_acc (by simp) a d
    rw [phase1_present s a d hp, phase1_present t a d (h.busReset_fst.trans hp)]
    exact ⟨scratchCode_congr ha, (hs.enterScratch.frameWsp a d).setSeq _ _, fun _ => ha⟩
  | false =>
    rw [phase1_absent s a d hp, phase1_absent t a d (h.busReset_fst.trans hp)]
    exact ⟨rfl, hs, fun hh => by simpa using hh⟩

end State.Agree

end Sys2Proof.Machine
end

