-- ==== Sys2Proof/Laws/Calls.lean ====
section
/-! SUPPORT. The states in which an instruction makes its transport calls: each carries the events of the calls before it
and no more, `SEQ` is at the call, and what the instruction has not reached yet is as before (R57, R166). -/

namespace Sys2Proof.Machine

variable {s : State}

/-- What an instruction from `s` has not changed where it waits for one of its transport calls, in `p`. -/
structure State.waitsIn (s p : State) : Prop where
  busy : p.busy = s.busy
  seq : p.seq ≠ .idle
  inputs : s.sameInputs p
  status : p.status = s.status
  result : p.result = s.result

/-- From the history `tr` on, the states `calls` make one call each, in this order, and `tr'` is the history after them. -/
def CallsFrom (s : State) : List Event → List State → List Event → Prop
  | tr, [], tr' => tr' = tr
  | tr, p :: calls, tr' => p.trace = tr ∧ s.waitsIn p ∧ ∃ e, CallsFrom s (tr ++ [e]) calls tr'

variable {tr tr' tr'' : List Event} {calls more : List State} {p : State}

theorem CallsFrom.append (h : CallsFrom s tr calls tr') (h' : CallsFrom s tr' more tr'') :
    CallsFrom s tr (calls ++ more) tr'' := by
  induction calls generalizing tr with
  | nil => cases h; exact h'
  | cons q l ih =>
    obtain ⟨h1, h2, e, h3⟩ := h
    exact ⟨h1, h2, e, ih h3⟩

/-- One call more than the calls has a list that is empty under a condition. -/
theorem CallsFrom.append_ite {c : Prop} [Decidable c] (h : CallsFrom s tr calls tr')
    (yes : c → CallsFrom s tr' more tr'') (no : ¬c → tr'' = tr') :
    CallsFrom s tr (calls ++ if c then more else []) tr'' := by
  split
  · exact h.append (yes ‹_›)
  · rw [List.append_nil, no ‹_›]
    exact h

/-- What one state that makes its calls has not changed, one that it began from has not either. -/
theorem State.waitsIn.trans {u : State} (h : u.waitsIn p) (busy : u.busy = s.busy) (inputs : s.sameInputs u)
    (status : u.status = s.status) (result : u.result = s.result) : s.waitsIn p := by
  obtain ⟨h1, h2, ⟨i1, i2, i3, i4, i5, i6, i7, i8, i9⟩, h4, h5⟩ := h
  obtain ⟨j1, j2, j3, j4, j5, j6, j7, j8, j9⟩ := inputs
  exact ⟨h1.trans busy, h2, ⟨i1.trans j1, i2.trans j2, i3.trans j3, i4.trans j4, i5.trans j5, i6.trans j6, i7.trans j7,
    i8.trans j8, i9.trans j9⟩, h4.trans status, h5.trans result⟩

theorem CallsFrom.trans {u : State} (h : CallsFrom u tr calls tr') (busy : u.busy = s.busy) (inputs : s.sameInputs u)
    (status : u.status = s.status) (result : u.result = s.result) : CallsFrom s tr calls tr' := by
  induction calls generalizing tr with
  | nil => exact h
  | cons q l ih =>
    obtain ⟨h1, h2, e, h3⟩ := h
    exact ⟨h1, h2.trans busy inputs status result, e, ih h3⟩

/-- The calls are counted by the events. -/
theorem CallsFrom.length (h : CallsFrom s tr calls tr') : tr'.length = tr.length + calls.length := by
  induction calls generalizing tr with
  | nil => cases h; rfl
  | cons q l ih =>
    obtain ⟨-, -, e, h3⟩ := h
    have := ih h3
    simp only [List.length_append, List.length_cons, List.length_nil] at this ⊢
    omega

/-- The history only grows. -/
theorem CallsFrom.prefix (h : CallsFrom s tr calls tr') : tr <+: tr' := by
  induction calls generalizing tr with
  | nil => cases h; exact List.prefix_refl _
  | cons q l ih =>
    obtain ⟨-, -, e, h3⟩ := h
    exact (List.prefix_append tr [e]).trans (ih h3)

/-- Each call is made with the events before it, and those alone, in the history. -/
theorem CallsFrom.of_mem (h : CallsFrom s tr calls tr') (hp : p ∈ calls) :
    s.waitsIn p ∧ tr <+: p.trace ∧ p.trace <+: tr' ∧ p.trace.length < tr'.length := by
  induction calls generalizing tr with
  | nil => cases hp
  | cons q l ih =>
    obtain ⟨h1, h2, e, h3⟩ := h
    rcases List.mem_cons.mp hp with rfl | hp
    · have hl := h3.length
      rw [List.length_append, List.length_singleton] at hl
      exact ⟨h2, h1 ▸ List.prefix_refl _, h1 ▸ (List.prefix_append tr [e]).trans h3.prefix, by rw [h1]; omega⟩
    · obtain ⟨a, b, c, d⟩ := ih h3 hp
      exact ⟨a, (List.prefix_append tr [e]).trans b, c, d⟩

/-- Every number between the two histories' lengths is that of a call. -/
theorem CallsFrom.exists_mem (h : CallsFrom s tr calls tr') {n : Nat} (hn : tr.length ≤ n) (hn' : n < tr'.length) :
    ∃ p ∈ calls, p.trace.length = n := by
  induction calls generalizing tr with
  | nil => cases h; omega
  | cons q l ih =>
    obtain ⟨h1, -, e, h3⟩ := h
    by_cases he : tr.length = n
    · exact ⟨q, List.mem_cons_self, by rw [h1, he]⟩
    · obtain ⟨p, hp, hl⟩ := ih h3 (by simp only [List.length_append, List.length_singleton]; omega)
      exact ⟨p, List.mem_cons_of_mem _ hp, hl⟩

/-! ### The calls of each part -/

/-- A call made in `p`, after which the history is that of `u`, and the calls from there. -/
theorem CallsFrom.cons {u : State} (hp : p.trace = tr) (hw : s.waitsIn p) (hu : ∃ e, u.trace = tr ++ [e])
    (h : CallsFrom s u.trace calls tr') : CallsFrom s tr (p :: calls) tr' := by
  obtain ⟨e, he⟩ := hu
  exact ⟨hp, hw, e, he ▸ h⟩

theorem selectCalls_spec (s : State) : CallsFrom s s.trace (selectCalls s) (select s).2.trace := by
  have hp : (probe s).2.trace = s.trace ++ [.rst (busReset s).1] := by simp [probe, busReset_trace]
  refine .cons (u := (probe s).2) rfl (by constructor <;> simp [State.sameInputs]) ⟨_, hp⟩ ?_
  cases h : (probe s).1 with
  | false => simp [select_of_absent s h, CallsFrom]
  | true =>
    rw [select_of_present s h, if_pos rfl]
    exact ⟨rfl, by constructor <;> simp [matchCall, State.sameInputs], _, exchange_trace (matchCall _ (probe s).2) 9⟩

theorem readCall_spec (a : Word) (s : State) : CallsFrom s s.trace [readCall a s] (frameRead a s).trace :=
  ⟨rfl, by constructor <;> simp [readCall, State.sameInputs], _, exchange_trace (readCall a s) 37⟩

theorem readcCall_spec (s : State) : CallsFrom s s.trace [readcCall s] (frameReadc s).trace :=
  ⟨rfl, by constructor <;> simp [readcCall, State.sameInputs], _, exchange_trace (readcCall s) 34⟩

theorem wspCall_spec (a : Word) (d : Bytes 32) (s : State) : CallsFrom s s.trace [wspCall a d s] (frameWsp a d s).trace :=
  ⟨rfl, by constructor <;> simp [wspCall, State.sameInputs], _, exchange_trace (wspCall a d s) 37⟩

theorem matchCall_spec (v : Bytes 8) (s : State) : CallsFrom s s.trace [matchCall v s] (frameMatch v s).trace :=
  ⟨rfl, by constructor <;> simp [matchCall, State.sameInputs], _, exchange_trace (matchCall v s) 9⟩

theorem copyCall_spec (a : Word) (s : State) : CallsFrom s s.trace [copyCall a s] (frameCopy a s).trace :=
  ⟨rfl, by constructor <;> simp [copyCall, State.sameInputs], _, exchange_trace (copyCall a s) 3⟩

theorem authCall_spec (s : State) : CallsFrom s s.trace [authCall s] (frameAuth s).trace :=
  ⟨rfl, by constructor <;> simp [authCall, State.sameInputs], _, exchange_trace (authCall s) 1⟩

theorem copyCalls_spec (a : Word) (s : State) :
    CallsFrom s s.trace (copyCalls a s) (confirm (powerOff (waitSettle (frameAuth (powerOn (frameCopy a s)))))).trace := by
  refine .cons (u := frameCopy a s) rfl ?_ ⟨_, exchange_trace (copyCall a s) 3⟩ ?_
  · constructor <;> simp [copyCall, State.sameInputs]
  refine .cons (u := powerOn (frameCopy a s)) rfl ?_ ⟨_, rfl⟩ ?_
  · constructor <;> simp [State.sameInputs]
  refine .cons (u := frameAuth (powerOn (frameCopy a s))) rfl ?_ ⟨_, exchange_trace (authCall (powerOn (frameCopy a s))) 1⟩ ?_
  · constructor <;> simp [authCall, powerOn, State.sameInputs]
  refine .cons (u := waitSettle (frameAuth (powerOn (frameCopy a s)))) rfl ?_ ⟨_, by simp [waitSettle]; rfl⟩ ?_
  · constructor <;> simp [powerOn, State.sameInputs]
  refine .cons (u := powerOff (waitSettle (frameAuth (powerOn (frameCopy a s))))) rfl ?_ ⟨_, rfl⟩ ?_
  · constructor <;> simp [waitSettle, powerOn, State.sameInputs]
  refine .cons (u := confirm (powerOff (waitSettle (frameAuth (powerOn (frameCopy a s)))))) rfl ?_
    ⟨_, readByte_trace (setSeq .cpConf _)⟩ rfl
  constructor <;> simp [powerOff, waitSettle, powerOn, State.sameInputs]

theorem phase1Calls_spec (a : Word) (d : Bytes 32) (s : State) :
    CallsFrom s s.trace (phase1Calls a d s) (phase1 a d s).2.trace := by
  refine (selectCalls_spec s).append_ite (fun h => ?_) (fun h => ?_)
  · have hc := wspCall_spec a d (enterScratch (select s).2)
    simp only [phase1, h, if_true, setSeq_trace]
    exact hc.trans (by simp) (by simp [State.sameInputs]) (by simp) (by simp)
  · simp [phase1, h]

theorem phase2Calls_spec (a : Word) (s : State) : CallsFrom s s.trace (phase2Calls a s) (phase2 a s).2.trace := by
  refine (selectCalls_spec s).append_ite (fun h => ?_) (fun h => ?_)
  · have hc := copyCalls_spec a (select s).2
    simp only [phase2, h, if_true, setSeq_trace]
    exact hc.trans (by simp) (by simp [State.sameInputs]) (by simp) (by simp)
  · simp [phase2, h]

theorem readPageCalls_spec (s : State) : CallsFrom s s.trace (readPageCalls s)
    (if (select (clearRvalid s)).1 then
      finishRead 3 (frameRead (pageAddr (select (clearRvalid s)).2.argPidx) (enterRead (select (clearRvalid s)).2))
    else fail .deviceAbsent (select (clearRvalid s)).2).trace := by
  have hs : CallsFrom s s.trace (selectCalls (clearRvalid s)) (select (clearRvalid s)).2.trace :=
    (selectCalls_spec (clearRvalid s)).trans rfl (by simp [State.sameInputs]) rfl rfl
  refine hs.append_ite (fun h => ?_) (fun h => ?_)
  · have hc := readCall_spec (pageAddr (select (clearRvalid s)).2.argPidx) (enterRead (select (clearRvalid s)).2)
    rw [if_pos h, finishRead_trace]
    exact hc.trans (by simp) (by simp [State.sameInputs]) (by simp) (by simp)
  · rw [if_neg h, fail_trace]

theorem writePageCalls_spec (s : State) : CallsFrom s s.trace (writePageCalls s) (writePage s).trace := by
  have h1 : CallsFrom s s.trace (phase1Calls (pageAddr s.argPidx) s.wdata (setWState .idle s))
      (phase1 (pageAddr s.argPidx) s.wdata (setWState .idle s)).2.trace :=
    (phase1Calls_spec (pageAddr s.argPidx) s.wdata (setWState .idle s)).trans rfl (by simp [State.sameInputs]) rfl rfl
  refine h1.append_ite (fun h => ?_) (fun h => ?_)
  · have hc := phase2Calls_spec (pageAddr s.argPidx)
      (setWState .scratchpadStaged (phase1 (pageAddr s.argPidx) s.wdata (setWState .idle s)).2)
    rw [writePage_of_phase1_ok s h]
    simp only [commitStaged, finishPhase_trace, setWState_trace]
    exact hc.trans (by simp) (by simp [State.sameInputs]) (by simp) (by simp)
  · rw [writePage_of_phase1_fail s h]; simp

/-! ### The calls and the end of every instruction -/

/-- The states in which an instruction makes its transport calls. -/
def instrCalls : Instr → State → List State
  | .crcReset, _ => []
  | .crcAcc, _ => []
  | .crcCheck, _ => []
  | .select, s => selectCalls s
  | .readPage, s => readPageCalls s
  | .readPageC, s => [readcCall (enterRead (clearRvalid s))]
  | .writeScratchpad, s => phase1Calls s.argAddr s.wdata s
  | .copyScratchpad, s => phase2Calls s.argAddr s
  | .writePage, s => writePageCalls s
  | .wMatch v, s => [matchCall v s]
  | .wRead a, s => [readCall a s]
  | .wReadc, s => [readcCall s]
  | .wWsp a d, s => [wspCall a d s]
  | .wCopy a, s => [copyCall a s]
  | .wAuth, s => [authCall s]

/-- The end of `SELECT` (R105). -/
def selectEnd (s : State) : State :=
  if (select s).1 then done .success (select s).2 else fail .deviceAbsent (select s).2

/-- The end of `READ_PAGE` (R110). -/
def readPageEnd (s : State) : State :=
  if (select (clearRvalid s)).1 then
    finishRead 3 (frameRead (pageAddr (select (clearRvalid s)).2.argPidx) (enterRead (select (clearRvalid s)).2))
  else fail .deviceAbsent (select (clearRvalid s)).2

/-- The state after an instruction all of whose calls return; of the CRC operations it says nothing. -/
def instrEnd : Instr → State → State
  | .crcReset, s => s
  | .crcAcc, s => s
  | .crcCheck, s => s
  | .select, s => selectEnd s
  | .readPage, s => readPageEnd s
  | .readPageC, s => finishRead 0 (frameReadc (enterRead (clearRvalid s)))
  | .writeScratchpad, s => finishPhase (phase1 s.argAddr s.wdata s)
  | .copyScratchpad, s => finishPhase (phase2 s.argAddr s)
  | .writePage, s => writePage s
  | .wMatch v, s => frameMatch v s
  | .wRead a, s => frameRead a s
  | .wReadc, s => frameReadc s
  | .wWsp a d, s => frameWsp a d s
  | .wCopy a, s => frameCopy a s
  | .wAuth, s => frameAuth s

/-- A CRC operation always completes (R94 to R96). -/
theorem exec_of_crc {i : Instr} (h : i ∈ crcOps) (s : State) : ∃ t, exec i s = .next t ∧ t.trace = s.trace := by
  simp only [crcOps, List.mem_cons, List.not_mem_nil, or_false] at h
  rcases h with rfl | rfl | rfl <;> exact ⟨_, rfl, rfl⟩

/-- Every other instruction is the delivery of its calls and its end (R57, R166). -/
theorem exec_eq_deliver {i : Instr} (h : i ∉ crcOps) (s : State) :
    exec i s = deliver s (instrCalls i s) (instrEnd i s) := by
  cases i <;> first | rfl | simp [crcOps] at h

theorem instrCalls_ne_nil {i : Instr} (h : i ∉ crcOps) (s : State) : instrCalls i s ≠ [] := by
  cases i <;> first | exact List.cons_ne_nil _ _ | simp [crcOps] at h

/-- The calls of an instruction bring the history from its beginning to its end, one event each. -/
theorem instrCalls_spec (i : Instr) (s : State) : CallsFrom s s.trace (instrCalls i s) (instrEnd i s).trace := by
  cases i with
  | crcReset => rfl
  | crcAcc => rfl
  | crcCheck => rfl
  | select =>
    simp only [instrEnd, selectEnd]
    split <;> exact selectCalls_spec s
  | readPage => exact readPageCalls_spec s
  | readPageC =>
    simp only [instrEnd, finishRead_trace]
    exact (readcCall_spec (enterRead (clearRvalid s))).trans rfl (by simp [State.sameInputs]) rfl rfl
  | writeScratchpad =>
    simp only [instrEnd, finishPhase_trace]
    exact phase1Calls_spec ..
  | copyScratchpad =>
    simp only [instrEnd, finishPhase_trace]
    exact phase2Calls_spec ..
  | writePage => exact writePageCalls_spec s
  | wMatch v => exact matchCall_spec v s
  | wRead a => exact readCall_spec a s
  | wReadc => exact readcCall_spec s
  | wWsp a d => exact wspCall_spec a d s
  | wCopy a => exact copyCall_spec a s
  | wAuth => exact authCall_spec s

/-! ### How many calls there are (R166) -/

theorem selectCalls_length (s : State) : (selectCalls s).length ≤ 2 := by
  simp only [selectCalls]; split <;> simp

theorem phase1Calls_length (a : Word) (d : Bytes 32) (s : State) : (phase1Calls a d s).length ≤ 3 := by
  have := selectCalls_length s
  simp only [phase1Calls]; split <;> simp <;> omega

theorem phase2Calls_length (a : Word) (s : State) : (phase2Calls a s).length ≤ 8 := by
  have := selectCalls_length s
  simp only [phase2Calls]; split <;> simp [copyCalls] <;> omega

theorem writePageCalls_length (s : State) : (writePageCalls s).length ≤ 11 := by
  have h1 := phase1Calls_length (pageAddr s.argPidx) s.wdata (setWState .idle s)
  have h2 := phase2Calls_length (pageAddr s.argPidx)
    (setWState .scratchpadStaged (phase1 (pageAddr s.argPidx) s.wdata (setWState .idle s)).2)
  simp only [writePageCalls]; split <;> simp <;> omega

/-- An instruction makes at most 11 transport calls (R166). -/
theorem instrCalls_length (i : Instr) (s : State) : (instrCalls i s).length ≤ 11 := by
  cases i with
  | select => exact (selectCalls_length s).trans (by omega)
  | readPage =>
    have := selectCalls_length (clearRvalid s)
    simp only [instrCalls, readPageCalls]; split <;> simp <;> omega
  | writeScratchpad => exact (phase1Calls_length ..).trans (by omega)
  | copyScratchpad => exact (phase2Calls_length ..).trans (by omega)
  | writePage => exact writePageCalls_length s
  | crcReset | crcAcc | crcCheck | readPageC | wMatch _ | wRead _ | wReadc | wWsp _ _ | wCopy _ | wAuth =>
    simp [instrCalls]

/-! ### The environment at each call: inside its definition, if it is at the end -/

theorem selectCalls_inside {s : State} (h : (select s).2.envOutside = false) :
    ∀ p ∈ selectCalls s, p.envOutside = false := by
  have hs := select_envOutside s h
  intro p hp
  cases hb : (probe s).1 with
  | false =>
    simp only [selectCalls, hb, Bool.false_eq_true, if_false, List.mem_singleton] at hp
    subst hp
    exact hs
  | true =>
    simp only [selectCalls, hb, if_true, List.mem_cons, List.not_mem_nil, or_false] at hp
    rw [select_of_present s hb] at h
    rcases hp with rfl | rfl
    · exact hs
    · exact exchange_envOutside (matchCall s.id (probe s).2) h

theorem phase1Calls_inside {a : Word} {d : Bytes 32} {s : State} (h : (phase1 a d s).2.envOutside = false) :
    (∀ p ∈ phase1Calls a d s, p.envOutside = false) ∧ (select s).2.envOutside = false := by
  cases hb : (select s).1 with
  | false =>
    simp only [phase1, phase1Calls, hb, Bool.false_eq_true, if_false, List.append_nil] at h ⊢
    exact ⟨selectCalls_inside h, h⟩
  | true =>
    simp only [phase1, hb, if_true, setSeq_envOutside] at h
    have hw : (wspCall a d (enterScratch (select s).2)).envOutside = false :=
      exchange_envOutside _ (by simpa [frameWsp] using h)
    have hs : (select s).2.envOutside = false := hw
    refine ⟨fun p hp => ?_, hs⟩
    simp only [phase1Calls, hb, if_true, List.mem_append, List.mem_singleton] at hp
    rcases hp with hp | rfl
    · exact selectCalls_inside hs p hp
    · exact hw

theorem phase2Calls_inside {a : Word} {s : State} (h : (phase2 a s).2.envOutside = false) :
    ∀ p ∈ phase2Calls a s, p.envOutside = false := by
  intro p hp
  cases hb : (select s).1 with
  | false =>
    simp only [phase2, phase2Calls, hb, Bool.false_eq_true, if_false, List.append_nil] at h hp
    exact selectCalls_inside h p hp
  | true =>
    simp only [phase2, hb, if_true, setSeq_envOutside] at h
    have h3 : (frameAuth (powerOn (frameCopy a (select s).2))).envOutside = false := by
      simpa [confirm, powerOff, waitSettle] using h
    have h2 : (powerOn (frameCopy a (select s).2)).envOutside = false := frameAuth_envOutside _ h3
    have h1 : (frameCopy a (select s).2).envOutside = false := by simpa [powerOn] using h2
    have h0 := frameCopy_envOutside _ h1
    simp only [phase2Calls, hb, if_true, List.mem_append, copyCalls, List.mem_cons, List.not_mem_nil, or_false] at hp
    rcases hp with hp | rfl | rfl | rfl | rfl | rfl | rfl
    · exact selectCalls_inside h0 p hp
    · exact h0
    · exact h1
    · exact h2
    · exact h3
    · simpa [waitSettle] using h3
    · simpa [powerOff, waitSettle] using h3

theorem writePageCalls_inside {s : State} (h : (writePage s).envOutside = false) :
    ∀ p ∈ writePageCalls s, p.envOutside = false := by
  intro p hp
  by_cases hk : (phase1 (pageAddr s.argPidx) s.wdata (setWState .idle s)).1 = .ok
  · rw [writePage_of_phase1_ok s hk, commitStaged, finishPhase_envOutside, setWState_envOutside] at h
    simp only [writePageCalls, hk, if_true, List.mem_append] at hp
    rcases hp with hp | hp
    · exact (phase1Calls_inside (by simpa using phase2_envOutside _ h)).1 p hp
    · exact phase2Calls_inside h p hp
  · rw [writePage_of_phase1_fail s hk, fail_envOutside, setWState_envOutside] at h
    simp only [writePageCalls, hk, if_false, List.append_nil] at hp
    exact (phase1Calls_inside h).1 p hp

theorem readPageCalls_inside {s : State} (h : (readPageEnd s).envOutside = false) :
    ∀ p ∈ readPageCalls s, p.envOutside = false := by
  intro p hp
  cases hb : (select (clearRvalid s)).1 with
  | false =>
    simp only [readPageEnd, readPageCalls, hb, Bool.false_eq_true, if_false, List.append_nil] at h hp
    exact selectCalls_inside h p hp
  | true =>
    simp only [readPageEnd, hb, if_true, finishRead_envOutside] at h
    have hw : (readCall (pageAddr (select (clearRvalid s)).2.argPidx) (enterRead (select (clearRvalid s)).2)).envOutside
        = false := exchange_envOutside _ (by simpa [frameRead] using h)
    simp only [readPageCalls, hb, if_true, List.mem_append, List.mem_singleton] at hp
    rcases hp with hp | rfl
    · exact selectCalls_inside hw p hp
    · exact hw

/-- Where the environment is inside its definition at the end of an instruction, it was so at each of its calls. -/
theorem instrCalls_inside {i : Instr} {s : State} (h : (instrEnd i s).envOutside = false) :
    ∀ p ∈ instrCalls i s, p.envOutside = false := by
  cases i with
  | crcReset | crcAcc | crcCheck => simp [instrCalls]
  | select =>
    refine selectCalls_inside ?_
    simp only [instrEnd, selectEnd] at h
    split at h <;> exact h
  | readPage => exact readPageCalls_inside h
  | writeScratchpad => exact (phase1Calls_inside (by simpa [instrEnd] using h)).1
  | copyScratchpad => exact phase2Calls_inside (by simpa [instrEnd] using h)
  | writePage => exact writePageCalls_inside h
  | readPageC =>
    simp only [instrCalls, List.mem_singleton, forall_eq]
    exact exchange_envOutside _ (by simpa [instrEnd, frameReadc] using h)
  | wMatch v | wCopy a | wAuth =>
    simp only [instrCalls, List.mem_singleton, forall_eq]
    exact exchange_envOutside _ h
  | wRead a =>
    simp only [instrCalls, List.mem_singleton, forall_eq]
    exact exchange_envOutside _ (by simpa [instrEnd, frameRead] using h)
  | wReadc =>
    simp only [instrCalls, List.mem_singleton, forall_eq]
    exact exchange_envOutside _ (by simpa [instrEnd, frameReadc] using h)
  | wWsp a d =>
    simp only [instrCalls, List.mem_singleton, forall_eq]
    exact exchange_envOutside _ (by simpa [instrEnd, frameWsp] using h)

/-- At the first call nothing has happened yet. -/
theorem instrCalls_head {i : Instr} (h : i ∉ crcOps) (s : State) :
    ∃ p calls, instrCalls i s = p :: calls ∧ p.envOutside = s.envOutside := by
  cases i <;> first | exact ⟨_, _, rfl, rfl⟩ | simp [crcOps] at h

end Sys2Proof.Machine
end

