-- ==== Sys2Proof/Laws/Hang.lean ====
section
/-! SUPPORT. What an instruction does does not depend on which transport call never returns: its calls and its end are the
same, only the delivery looks at `hangAt` (R166). -/

namespace Sys2Proof.Machine

/-- The same state in front of a transport whose call number `h` never returns. -/
def State.withHang (h : Option Nat) (s : State) : State := { s with hangAt := h }

variable (h : Option Nat) (s : State)

@[simp] theorem withHang_trace : (s.withHang h).trace = s.trace := rfl
@[simp] theorem withHang_env : (s.withHang h).env = s.env := rfl
@[simp] theorem withHang_hangAt : (s.withHang h).hangAt = h := rfl
@[simp] theorem withHang_envOutside : (s.withHang h).envOutside = s.envOutside := rfl

/-! ### Transport calls and what changes no history -/

theorem busReset_withHang : busReset (s.withHang h) = ((busReset s).1, (busReset s).2.withHang h) := by
  simp only [busReset, State.withHang]; split <;> rfl

theorem exchange_withHang (n : Nat) : exchange n (s.withHang h) = (exchange n s).withHang h := by
  simp only [exchange, afterExchange, received, State.withHang, record]; split <;> rfl

theorem readByte_withHang : readByte (s.withHang h) = (readByte s).withHang h := by
  simp only [readByte, State.withHang, record]; split <;> rfl

theorem probe_withHang : probe (s.withHang h) = ((probe s).1, (probe s).2.withHang h) := by
  have hb := busReset_withHang h (setSeq .selReset s)
  exact congrArg (fun r : Bool × State => (r.1, setPresent r.1 r.2)) hb

theorem finishRead_withHang (k : Nat) : finishRead k (s.withHang h) = (finishRead k s).withHang h := by
  cases hv : s.valid with
  | true =>
    have hv' : (s.withHang h).valid = true := hv
    simp only [finishRead, setSeq_valid, hv, hv', if_true]; rfl
  | false =>
    have hv' : (s.withHang h).valid = false := hv
    simp only [finishRead, setSeq_valid, hv, hv', Bool.false_eq_true, if_false]; rfl

theorem finishPhase_withHang (c : Status) : finishPhase (c, s.withHang h) = (finishPhase (c, s)).withHang h := by
  simp only [finishPhase]; split <;> rfl

/-! ### Frames -/

theorem frameMatch_withHang (v : Bytes 8) : frameMatch v (s.withHang h) = (frameMatch v s).withHang h :=
  exchange_withHang h (matchCall v s) 9

theorem frameCopy_withHang (a : Word) : frameCopy a (s.withHang h) = (frameCopy a s).withHang h :=
  exchange_withHang h (copyCall a s) 3

theorem frameAuth_withHang : frameAuth (s.withHang h) = (frameAuth s).withHang h := exchange_withHang h (authCall s) 1

theorem frameRead_withHang (a : Word) : frameRead a (s.withHang h) = (frameRead a s).withHang h := by
  have hx := exchange_withHang h (readCall a s) 37
  exact congrArg (fun u => foldBytes (((setSeq .rdFold u).tb.toList.drop 3).take 34) (setSeq .rdFold u)) hx

theorem frameReadc_withHang : frameReadc (s.withHang h) = (frameReadc s).withHang h := by
  have hx := exchange_withHang h (readcCall s) 34
  exact congrArg (fun u => foldBytes ((setSeq .rdFold u).tb.toList.take 34) (setSeq .rdFold u)) hx

theorem frameWsp_withHang (a : Word) (d : Bytes 32) : frameWsp a d (s.withHang h) = (frameWsp a d s).withHang h := by
  have hx := exchange_withHang h (wspCall a d s) 37
  exact congrArg (fun u => foldBytes (((setSeq .wsFold u).tb.toList.drop 35).take 2) (setSeq .wsFold u)) hx

/-! ### The selection and the phases -/

theorem select_withHang : select (s.withHang h) = ((select s).1, (select s).2.withHang h) := by
  simp only [select, probe_withHang]
  split
  · exact congrArg (Prod.mk _) (frameMatch_withHang h (probe s).2 (probe s).2.id)
  · rfl

theorem selectCalls_withHang : selectCalls (s.withHang h) = (selectCalls s).map (State.withHang h) := by
  simp only [selectCalls, probe_withHang]
  split <;> rfl

theorem phase1_withHang (a : Word) (d : Bytes 32) :
    phase1 a d (s.withHang h) = ((phase1 a d s).1, (phase1 a d s).2.withHang h) := by
  simp only [phase1, select_withHang]
  split
  · have hf := frameWsp_withHang h (enterScratch (select s).2) a d
    exact congrArg (fun u => (scratchCode (setSeq .wsCheck u), setSeq .wsCheck u)) hf
  · rfl

theorem phase1Calls_withHang (a : Word) (d : Bytes 32) :
    phase1Calls a d (s.withHang h) = (phase1Calls a d s).map (State.withHang h) := by
  simp only [phase1Calls, select_withHang, selectCalls_withHang]
  split
  · rw [List.map_append]; rfl
  · simp

theorem phase2_withHang (a : Word) : phase2 a (s.withHang h) = ((phase2 a s).1, (phase2 a s).2.withHang h) := by
  simp only [phase2, select_withHang]
  split
  · have hc : confirm (powerOff (waitSettle (frameAuth (powerOn (frameCopy a ((select s).2.withHang h)))))) =
        (confirm (powerOff (waitSettle (frameAuth (powerOn (frameCopy a (select s).2)))))).withHang h := by
      rw [frameCopy_withHang]
      have ha := frameAuth_withHang h (powerOn (frameCopy a (select s).2))
      have hr := readByte_withHang h
        (setSeq .cpConf (powerOff (waitSettle (frameAuth (powerOn (frameCopy a (select s).2))))))
      exact (congrArg (fun u => confirm (powerOff (waitSettle u))) ha).trans hr
    rw [hc]
    rfl
  · rfl

theorem copyCalls_withHang (a : Word) : copyCalls a (s.withHang h) = (copyCalls a s).map (State.withHang h) := by
  have ha := frameAuth_withHang h (powerOn (frameCopy a s))
  have hp : powerOn ((frameCopy a s).withHang h) = (powerOn (frameCopy a s)).withHang h := rfl
  simp only [copyCalls, frameCopy_withHang, hp, ha]
  rfl

theorem phase2Calls_withHang (a : Word) : phase2Calls a (s.withHang h) = (phase2Calls a s).map (State.withHang h) := by
  simp only [phase2Calls, select_withHang, selectCalls_withHang, copyCalls_withHang]
  split <;> simp

theorem commitStaged_withHang (a : Word) : commitStaged a (s.withHang h) = (commitStaged a s).withHang h := by
  have hp := phase2_withHang h (setWState .scratchpadStaged s) a
  exact (congrArg (fun r : Status × State => finishPhase (r.1, setWState (if r.1 = .ok then .committed else .unknown) r.2)) hp).trans
    (finishPhase_withHang h (setWState _ _) _)

theorem writePage_withHang : writePage (s.withHang h) = (writePage s).withHang h := by
  have hp := phase1_withHang h (setWState .idle s) (pageAddr s.argPidx) s.wdata
  refine (congrArg (fun r : Status × State =>
    if r.1 = .ok then commitStaged (pageAddr s.argPidx) r.2 else fail r.1 (setWState .aborted r.2)) hp).trans ?_
  simp only [writePage]
  split
  · exact commitStaged_withHang ..
  · rfl

theorem writePageCalls_withHang : writePageCalls (s.withHang h) = (writePageCalls s).map (State.withHang h) := by
  have hp := phase1_withHang h (setWState .idle s) (pageAddr s.argPidx) s.wdata
  have hc := phase1Calls_withHang h (setWState .idle s) (pageAddr s.argPidx) s.wdata
  refine (congrArg₂ (fun (r : Status × State) (l : List State) =>
    l ++ if r.1 = .ok then phase2Calls (pageAddr s.argPidx) (setWState .scratchpadStaged r.2) else []) hp hc).trans ?_
  simp only [writePageCalls]
  split
  · rw [List.map_append]
    exact congrArg _ (phase2Calls_withHang h (setWState .scratchpadStaged _) _)
  · simp

theorem readPageCalls_withHang : readPageCalls (s.withHang h) = (readPageCalls s).map (State.withHang h) := by
  have hs := select_withHang h (clearRvalid s)
  have hc := selectCalls_withHang h (clearRvalid s)
  refine (congrArg₂ (fun (r : Bool × State) (l : List State) =>
    l ++ if r.1 then [readCall (pageAddr r.2.argPidx) (enterRead r.2)] else []) hs hc).trans ?_
  simp only [readPageCalls]
  split
  · rw [List.map_append]; rfl
  · simp

theorem readPageEnd_withHang : readPageEnd (s.withHang h) = (readPageEnd s).withHang h := by
  have hs := select_withHang h (clearRvalid s)
  refine (congrArg (fun r : Bool × State =>
    if r.1 then finishRead 3 (frameRead (pageAddr r.2.argPidx) (enterRead r.2)) else fail .deviceAbsent r.2) hs).trans ?_
  simp only [readPageEnd]
  split
  · have hf := frameRead_withHang h (enterRead (select (clearRvalid s)).2) (pageAddr (select (clearRvalid s)).2.argPidx)
    exact (congrArg (finishRead 3) hf).trans (finishRead_withHang ..)
  · rfl

/-! ### Instructions -/

/-- The calls of an instruction are the same whichever call never returns. -/
theorem instrCalls_withHang (i : Instr) : instrCalls i (s.withHang h) = (instrCalls i s).map (State.withHang h) := by
  cases i with
  | select => exact selectCalls_withHang h s
  | readPage => exact readPageCalls_withHang h s
  | writeScratchpad => exact phase1Calls_withHang h s _ _
  | copyScratchpad => exact phase2Calls_withHang h s _
  | writePage => exact writePageCalls_withHang h s
  | crcReset | crcAcc | crcCheck | readPageC | wMatch _ | wRead _ | wReadc | wWsp _ _ | wCopy _ | wAuth => rfl

/-- The end of an instruction is the same whichever call never returns. -/
theorem instrEnd_withHang (i : Instr) : instrEnd i (s.withHang h) = (instrEnd i s).withHang h := by
  cases i with
  | crcReset | crcAcc | crcCheck => rfl
  | select =>
    simp only [instrEnd, selectEnd, select_withHang]
    split <;> rfl
  | readPage => exact readPageEnd_withHang h s
  | readPageC =>
    exact (congrArg (finishRead 0) (frameReadc_withHang h (enterRead (clearRvalid s)))).trans (finishRead_withHang ..)
  | writeScratchpad => exact (congrArg finishPhase (phase1_withHang h s _ _)).trans (finishPhase_withHang ..)
  | copyScratchpad => exact (congrArg finishPhase (phase2_withHang h s _)).trans (finishPhase_withHang ..)
  | writePage => exact writePage_withHang h s
  | wMatch v => exact frameMatch_withHang h s v
  | wRead a => exact frameRead_withHang h s a
  | wReadc => exact frameReadc_withHang h s
  | wWsp a d => exact frameWsp_withHang h s a d
  | wCopy a => exact frameCopy_withHang h s a
  | wAuth => exact frameAuth_withHang h s

end Sys2Proof.Machine
end

