-- ==== Sys2Proof/Laws/Invariant.lean ====
section
/-! SUPPORT. What the invariant needs of each operation: `TBLEN` stays in range, the reference device's memory stays
canonical, and without a reference environment there is none afterwards. -/

namespace Sys2Proof.Machine

variable {s t : State}

/-- The device's memory, where there is one, is in canonical form. -/
def State.MemOk (s : State) : Prop := ∀ m, s.mem? = some m → m.wf = true

/-- The environment fits iff it is inside its definition and its memory is in canonical form. -/
theorem envFits_iff : s.envFits ↔ s.envOutside = false ∧ s.MemOk := by
  unfold State.envFits State.envOutside State.MemOk State.mem?
  cases s.env <;> simp

theorem State.MemOk.congr (hs : s.MemOk) (h : t.mem? = s.mem?) : t.MemOk := fun m hm => hs m (h ▸ hm)

theorem env_none_of_mem? (h : t.mem? = s.mem?) (hs : s.env = none) : t.env = none := by
  simpa [State.mem?, hs] using h

theorem settle_memOk (h : s.MemOk) : (settle s).MemOk := by
  intro m hm
  simp only [State.mem?, settle_env] at hm
  cases he : s.env with
  | none => simp [he] at hm
  | some e =>
    simp only [he, Option.map_some, Option.some.injEq] at hm
    subst hm
    exact e.sleep_mem_wf _ _ (h e.mem (State.mem?_eq he))

theorem phase2_memOk (a : Word) (h : s.MemOk) : (phase2 a s).2.MemOk := by
  simp only [phase2]
  split
  · exact (settle_memOk (s := setSeq .cpWait (frameAuth (powerOn (frameCopy a (select s).2))))
      (h.congr (by simp))).congr (by simp [waitSettle])
  · exact h.congr (by simp)

theorem phase2_env_none (a : Word) (h : s.env = none) : (phase2 a s).2.env = none := by
  have hs : (select s).2.env = none := env_none_of_mem? (select_mem? s) h
  simp only [phase2]
  split
  · have h1 : (frameAuth (powerOn (frameCopy a (select s).2))).env = none :=
      env_none_of_mem? (s := (select s).2) (by simp) hs
    simp [confirm, powerOff, waitSettle, h1]
  · exact hs

theorem writePage_env_none (h : s.env = none) : (writePage s).env = none := by
  have h1 : (phase1 (pageAddr s.argPidx) s.wdata (setWState .idle s)).2.env = none :=
    env_none_of_mem? (phase1_mem? _ _ _) h
  simp only [writePage]
  split
  · simp only [commitStaged, finishPhase_env, setWState_env]
    exact phase2_env_none _ h1
  · exact h1

/-- Where work that leaves no environment behind without one is delivered, the environment is inside its definition. -/
theorem deliver_inside {u : State} {calls : List State} (h : deliver s calls t = .next u) (hn : s.env = none → t.env = none) :
    u = t ∧ t.envOutside = false := by
  obtain ⟨rfl, -, ho⟩ := deliver_next h
  refine ⟨rfl, ho.elim (fun h => ?_) id⟩
  simp [State.envOutside, hn h]

theorem select_tbLen_le (h : s.tbLen.toNat ≤ 37) : (select s).2.tbLen.toNat ≤ 37 := by
  cases hp : (busReset s).1 with
  | true => rw [(select_present_spec s hp).2.1]; decide
  | false => rw [(select_absent s hp).2.2.2]; exact h

theorem phase1_tbLen_le (a : Word) (d : Bytes 32) (h : s.tbLen.toNat ≤ 37) : (phase1 a d s).2.tbLen.toNat ≤ 37 := by
  cases hp : (busReset s).1 with
  | true =>
    obtain ⟨_, _, _, _, _, _, _, _, ht, _⟩ := phase1_spec s a d hp
    rw [ht]; decide
  | false => rw [phase1_absent s a d hp]; exact select_tbLen_le h

theorem phase2_tbLen_le (a : Word) (h : s.tbLen.toNat ≤ 37) : (phase2 a s).2.tbLen.toNat ≤ 37 := by
  cases hp : (busReset s).1 with
  | true =>
    obtain ⟨_, _, _, _, _, _, _, _, ht, _⟩ := phase2_spec s a hp
    rw [ht]; decide
  | false => rw [phase2_absent s a hp]; exact select_tbLen_le h

/-- The operation in progress is one of the nine (R72). -/
theorem runningOp_mem_hostOps {i : Instr} (h : runningOp s = some i) : i ∈ hostOps := by
  unfold runningOp decodeHost at h
  split at h
  · cases h
  · split at h
    · split at h <;> cases h
      decide
    · split at h <;> cases h <;> decide

/-- The operation in progress is named by `OPC` and `ARG_CONT` alone (R26). -/
theorem runningOp_congr (ho : t.opc = s.opc) (hc : t.argCont = s.argCont) : runningOp t = runningOp s := by
  simp only [runningOp, latchedCommand, ho, hc]

end Sys2Proof.Machine
end

