-- ==== Sys2Proof/Laws/PerInstr.lean ====
section
/-! SUPPORT. What holds of every instruction as syntax, one lemma per constructor: the fixed length of its encoding. -/

namespace Sys2Proof.Laws.EncodeLength

/-- The fixed length of an instruction's bytes: one for a host command byte (R71), 9, 37, 34, 37, 3 and 1 for the frames
(R86). -/
def length : Instr → Nat
  | .crcReset | .crcAcc | .crcCheck | .select | .readPage | .readPageC
  | .writeScratchpad | .copyScratchpad | .writePage => 1
  | .wMatch _ => 9
  | .wRead _ => 37
  | .wReadc => 34
  | .wWsp _ _ => 37
  | .wCopy _ => 3
  | .wAuth => 1

/-- The encoding has that length, whatever the operands (R86). -/
def Statement (i : Instr) : Prop := (encode i).length = length i

theorem crcReset : Statement .crcReset := rfl
theorem crcAcc : Statement .crcAcc := rfl
theorem crcCheck : Statement .crcCheck := rfl
theorem select : Statement .select := rfl
theorem readPage : Statement .readPage := rfl
theorem readPageC : Statement .readPageC := rfl
theorem writeScratchpad : Statement .writeScratchpad := rfl
theorem copyScratchpad : Statement .copyScratchpad := rfl
theorem writePage : Statement .writePage := rfl
theorem wMatch (ident : Bytes 8) : Statement (.wMatch ident) := Machine.encode_wMatch_length ident
theorem wRead (addr : Word) : Statement (.wRead addr) := Machine.encode_wRead_length addr
theorem wReadc : Statement .wReadc := Machine.encode_wReadc_length
theorem wWsp (addr : Word) (data : Bytes 32) : Statement (.wWsp addr data) := Machine.encode_wWsp_length addr data
theorem wCopy (addr : Word) : Statement (.wCopy addr) := rfl
theorem wAuth : Statement .wAuth := rfl

end Sys2Proof.Laws.EncodeLength
end

