-- ==== Sys2Proof/Laws/Step.lean ====
section
/-! SUPPORT. Steps and runs: which half of the step a state takes, and how a run is cut into steps. -/

namespace Sys2Proof.Machine

variable {s t : State}

theorem step_of_busy (h : s.busy = true) : step s = busyStep s := by simp [step, h]

theorem step_of_idle (h : s.busy = false) : step s = hostStep s := by simp [step, h]

/-- At a position where a frame begins, the step is the frame (R24, R85). -/
theorem busyStep_of_frame {i : Instr} (h : frameAt s = some i) : busyStep s = andLeaveFrame (exec i s) := by
  simp [busyStep, h]

/-- At any other position, it is the sequencer's. -/
theorem busyStep_of_no_frame (h : frameAt s = none) : busyStep s = sequencerStep s := by simp [busyStep, h]

@[simp] theorem runSteps_zero : runSteps 0 s = .next s := rfl

/-- `runSteps` is the host's own run of the machine. -/
theorem core_run_eq (n : Nat) : Sys2Proof.core.run n s = runSteps n s := by
  induction n generalizing s with
  | zero => rfl
  | succ n ih =>
    have hc : Sys2Proof.core.step s = step s := rfl
    cases h : step s with
    | next t =>
      simp only [Host.Core.run, runSteps, hc, h]
      exact ih
    | fault r =>
      simp only [Host.Core.run, runSteps, hc, h]
      rfl
    | refused r =>
      simp only [Host.Core.run, runSteps, hc, h]
      rfl

theorem runSteps_succ_of_next {n : Nat} (h : step s = .next t) : runSteps (n + 1) s = runSteps n t := by
  simp only [runSteps, h]

theorem runSteps_succ_of_fault {n : Nat} {r : Fault} (h : step s = .fault r) : runSteps (n + 1) s = .fault r := by
  simp only [runSteps, h]

theorem runSteps_succ_of_refused {n : Nat} {r : Refusal} (h : step s = .refused r) :
    runSteps (n + 1) s = .refused r := by
  simp only [runSteps, h]

/-- A run that begins with delivered work, and ends in `o` whichever way the work is delivered. -/
theorem runSteps_succ_of_deliver {n : Nat} {calls : List State} {o : Host.Outcome State Fault Refusal}
    (hs : step s = deliver s calls t)
    (hung : ∀ p, hungCall s calls = some p → o = unlessRefused s p (.fault (.transportHung p)))
    (left : hungCall s calls = none → s.env ≠ none → t.envOutside = true → o = .refused .environmentUndefined)
    (goes : hungCall s calls = none → s.env = none ∨ t.envOutside = false → runSteps n t = o) : runSteps (n + 1) s = o := by
  cases hn : hungCall s calls with
  | some p =>
    rw [hung p hn]
    rw [deliver_hung hn] at hs
    unfold unlessRefused at hs ⊢
    split at hs
    · rw [runSteps_succ_of_refused hs, if_pos ‹_›]
    · rw [runSteps_succ_of_fault hs, if_neg ‹_›]
  | none =>
    rw [deliver, hn] at hs
    by_cases he : s.env = none
    · rw [runSteps_succ_of_next (hs.trans (unlessRefused_of_none he _)), goes hn (.inl he)]
    · obtain ⟨e, he'⟩ := Option.ne_none_iff_exists'.mp he
      cases ho : t.envOutside with
      | true =>
        rw [left hn he ho]
        exact runSteps_succ_of_refused (hs.trans (unlessRefused_of_outside he' ho _))
      | false => rw [runSteps_succ_of_next (hs.trans (unlessRefused_of_inside ho _)), goes hn (.inr ho)]

end Sys2Proof.Machine
end

