-- ==== Sys2Proof/Tests/Slice0.lean ====
section
/-! SUPPORT. Tests of the model against the spec's own examples and vectors (spec/95_test_vectors.md), and for every
statement with hypotheses a concrete state that meets them. The expected values are the spec's, none is the model's. -/

-- The kernel checks of this file one after another: side by side their threads outgrow the memory limit.
set_option Elab.async false

namespace Sys2Proof.Tests

open Sys2Proof.Machine

/-! ### Helpers -/

/-- A field of the next state, where there is one. -/
def look {α : Type} (f : State → α) : Host.Outcome State Fault Refusal → Option α
  | .next s => some (f s)
  | .fault _ => none
  | .refused _ => none

/-- Whether an outcome is a fault. -/
def faults : Host.Outcome State Fault Refusal → Bool
  | .fault _ => true
  | .next _ => false
  | .refused _ => false

/-- A field of the state in which PIOC hangs, where it does. -/
def stuckAs {α : Type} (f : State → α) : Host.Outcome State Fault Refusal → Option α
  | .fault (.transportHung p) => some (f p)
  | .next _ => none
  | .refused _ => none

/-- Whether an outcome is a refusal. -/
def refuses : Host.Outcome State Fault Refusal → Bool
  | .refused _ => true
  | .next _ => false
  | .fault _ => false

/-- The identifier of 95_test_vectors.md. -/
def ident : Bytes 8 := ⟨#[0x43, 0x11, 0x22, 0x33, 0x44, 0x55, 0x66, 0x77], rfl⟩

/-- 32 bytes 0x42. -/
def page42 : Bytes 32 := Vector.replicate 32 0x42

/-- An idle PIOC with the operands of the spec's page-3 example. -/
def base : State where
  acc := 0x1234
  id := ident
  tb := Vector.replicate 37 0
  tbLen := 0
  seq := .idle
  wstate := .idle
  opc := 0
  argCont := false
  argPidx := 3
  argAddr := 0x0060
  argByte := 0x56
  wdata := page42
  status := .ok
  rdata := Vector.replicate 32 0x11
  rvalid := true
  conf := 0
  present := false
  busy := false
  busPower := .standard
  trace := []
  oracle := { presence := [], rx := [], confirm := [], picks := [], draws := 0 }
  env := none
  hangAt := none
  result := .nothing
  inbox := []

/-- `base` with an oracle that answers what is given. -/
def answering (presence : List Bool) (rx confirm : List Byte) : State :=
  { base with oracle := { presence := presence, rx := rx, confirm := confirm, picks := [], draws := 0 } }

/-- `n` bytes whose value no result depends on. -/
def any (n : Nat) : List Byte := List.replicate n 0x99

/-- The answer of a good read of page 3 (V30): a match frame, the header positions, the page, the CRC. -/
def goodRead : State := answering [true] (any 12 ++ List.replicate 32 0x42 ++ [0xA5, 0xE1]) []
/-- The same with one bit wrong in data byte 5 (V31). -/
def badRead : State :=
  answering [true] (any 12 ++ List.replicate 5 0x42 ++ [0x4A] ++ List.replicate 26 0x42 ++ [0xA5, 0xE1]) []
/-- A page 20, 21, .. 3F read in continued mode (V37). -/
def goodCont : State := answering [] ((List.range 32).map (fun k => BitVec.ofNat 8 (0x20 + k)) ++ [0xE5, 0xCD]) []
/-- Nothing answers a continued read (V38). -/
def badCont : State := answering [] (List.replicate 34 0xFF) []
/-- No device (V21, V33, V45, V46). -/
def absent : State := answering [false] [] []
/-- A good Phase 1 of the page-3 example (V39), with the second presence answer and the confirmation byte. -/
def phase1Good (presence : List Bool) (c : List Byte) : State :=
  answering (true :: presence) (any 44 ++ [0xB7, 0xF3] ++ any 13) c
/-- A bad Phase 1 (V47). -/
def phase1Bad : State := answering [true] (any 44 ++ [0xB6, 0xF3]) []
/-- A copy phase with a confirmation byte (V40 to V44). -/
def copying (c : Byte) : State := answering [true] (any 13) [c]
/-- A good `WRITE_PAGE` of the page-3 example whose transport call numbered `n` never returns (U12). -/
def hanging (n : Nat) : State := { phase1Good [true] [0xAA] with hangAt := some n }

/-- `MEM[k] = k` for `k` = 0 .. 95 (P3). -/
def risingMemory : Memory := (List.range 96).map fun k => (k, BitVec.ofNat 8 k)
/-- The reference environment of P3, `ENV(3)`, before a program. -/
def risingEnv : Env := Env.initial 3 ident risingMemory
/-- PIOC in front of it. -/
def rising (p : Word) : State := { base with env := some risingEnv, argPidx := p }
/-- An absent device (R64). -/
def absentEnv : State := { base with env := some { risingEnv with present := false } }

/-! ### Well-formedness and decoding -/

theorem test_wellFormed_refuses_misaligned_read :
    (Instr.wRead 0x0061).wellFormed = false ∧ (Instr.wRead 0x0060).wellFormed = true := by decide

/-- R72, written out from `RSV`, `CONT`, `OPC`. -/
theorem test_decode_host_bytes :
    (decode .host [0b00000000]).toOption = some .crcReset ∧ (decode .host [0b00000001]).toOption = some .crcAcc ∧
    (decode .host [0b00000010]).toOption = some .crcCheck ∧ (decode .host [0b00000011]).toOption = some .select ∧
    (decode .host [0b00000100]).toOption = some .readPage ∧ (decode .host [0b00010100]).toOption = some .readPageC ∧
    (decode .host [0b00000101]).toOption = some .writeScratchpad ∧
    (decode .host [0b00000110]).toOption = some .copyScratchpad ∧
    (decode .host [0b00000111]).toOption = some .writePage := by decide

/-- V52: the nine legal bytes and no other. -/
theorem test_decode_no_other_host_byte :
    ∀ b : Byte, (decodeHost b).toOption.isSome = decide (b.toNat ∈ [0, 1, 2, 3, 4, 5, 6, 7, 0x14]) := by decide +kernel

theorem test_decode_rejects_by_name :
    decode .host [0x20] = .error .reservedRsv ∧ decode .host [0x10] = .error .reservedCont ∧
    decode .host [0x08] = .error .reservedOpc ∧ decode .host [] = .error .wrongLength ∧
    decode .wauth [0x1E] = .error .wrongCommand ∧ decode .wcont (List.replicate 34 0) = .error .wrongFiller ∧
    decode .wmem ([0xA5, 0x61, 0x00] ++ List.replicate 34 0xFF) = .error .misalignedRead :=
  ⟨rfl, rfl, rfl, rfl, rfl, rfl, rfl⟩

/-- R75. -/
theorem test_decode_wMatch :
    (decode .wsel [0x55, 0x43, 0x11, 0x22, 0x33, 0x44, 0x55, 0x66, 0x77]).toOption = some (.wMatch ident) := by decide

/-- R76, V34: `READ_PAGE 79` sends A5 E0 09. -/
theorem test_decode_wRead :
    (decode .wmem ([0xA5, 0xE0, 0x09] ++ List.replicate 34 0xFF)).toOption = some (.wRead 0x09E0) := by decide +kernel

/-- R77. -/
theorem test_decode_wReadc : (decode .wcont (List.replicate 34 0xFF)).toOption = some .wReadc := by decide +kernel

/-- R78, V39. -/
theorem test_decode_wWsp :
    (decode .wmem ([0x0F, 0x60, 0x00] ++ List.replicate 32 0x42 ++ [0xFF, 0xFF])).toOption
      = some (.wWsp 0x0060 page42) := by decide +kernel

/-- R79, R85: 0x55 after a selection. -/
theorem test_decode_wCopy : (decode .wmem [0x55, 0x60, 0x00]).toOption = some (.wCopy 0x0060) := by decide

/-- R80. -/
theorem test_decode_wAuth : (decode .wauth [0x1F]).toOption = some .wAuth := by decide

/-- R83: the two address bytes of `i` = 2047 and of its neighbour 2048. -/
theorem test_encode_page_address :
    (encode (.wRead (pageAddr 2047))).take 3 = [0xA5, 0xE0, 0xFF] ∧
    (encode (.wRead (pageAddr 2048))).take 3 = [0xA5, 0x00, 0x00] := by decide +kernel

/-- spec/opcode_table.json's rows by their leading bits, and that a step from reset runs each. -/
theorem test_table_words :
    [(8, 0x00), (8, 0x01), (8, 0x02), (8, 0x03), (8, 0x04), (8, 0x14), (8, 0x05), (8, 0x06), (8, 0x07),
      (8, 0xA5), (8, 0xFF), (8, 0x0F), (24, 0x55), (8, 0x1F)].map (fun r => decodeTableWord r.1 r.2)
      = [some .crcReset, some .crcAcc, some .crcCheck, some .select, some .readPage, some .readPageC,
        some .writeScratchpad, some .copyScratchpad, some .writePage, some (.wRead 0), some .wReadc,
        some (.wWsp 0 (Vector.replicate 32 0)), some (.wCopy 0), some .wAuth] ∧
    decodeTableWord 8 0x55 = some (.wMatch (Vector.replicate 8 0)) := by decide +kernel

theorem test_table_words_run :
    [(8, 0x00), (8, 0x01), (8, 0x02), (8, 0x03), (8, 0x04), (8, 0x14), (8, 0x05), (8, 0x06), (8, 0x07), (8, 0x55),
      (8, 0xA5), (8, 0xFF), (8, 0x0F), (24, 0x55), (8, 0x1F)].all
      (fun r => (look (fun _ => ()) (step (State.reset.withFetchWord r.1 r.2))).isSome) = true := by decide +kernel

/-! ### CRC16 Engine -/

/-- V1: rows of the table of single updates. -/
theorem test_crc16_update :
    crc16Update 0x0000 0x01 = 0xC0C1 ∧ crc16Update 0x0000 0x80 = 0xA001 ∧ crc16Update 0xFFFF 0x00 = 0x40BF ∧
    crc16Update 0x00FF 0xFF = 0x0000 ∧ crc16Update 0xB001 0x32 = 0x15F0 ∧ crc16Update 0x787B 0x00 = 0x2338 := by decide

/-- V3, V4, V5, V7: the check value, the residue, the wrong order, 34 filler bytes. -/
theorem test_crc16_fold :
    crc16Fold 0 [0x31, 0x32, 0x33, 0x34, 0x35, 0x36, 0x37, 0x38, 0x39] = 0xBB3D ∧
    crc16Fold 0 [0xDE, 0xAD, 0xBE, 0xEF, 0x64, 0x1A] = 0xB001 ∧
    crc16Fold 0 [0xDE, 0xAD, 0xBE, 0xEF, 0x1A, 0x64] = 0x30A0 ∧
    crc16Fold 0 (List.replicate 34 0xFF) = 0x9B01 := by decide +kernel

/-- R94: `ACC` = 0x1E5A -> 0x0000. -/
theorem test_crcReset : look State.acc (exec .crcReset { base with acc := 0x1E5A }) = some 0x0000 := by decide +kernel

/-- R95: `ACC` = 0x1234, `b` = 0x56 -> 0xE993. -/
theorem test_crcAcc :
    look (fun t => (t.acc, t.result)) (exec .crcAcc base) = some (0xE993, .acc 0xE993) := by decide +kernel

/-- V9. -/
theorem test_crcCheck :
    look State.result (exec .crcCheck { base with acc := 0xB001 }) = some (.valid true) ∧
    look State.result (exec .crcCheck { base with acc := 0x3001 }) = some (.valid false) := by decide +kernel

/-! ### Device Selector -/

/-- V20. -/
theorem test_select_present :
    look (fun t => (t.status, t.present, t.trace, t.acc)) (exec .select (answering [true] (any 9) []))
      = some (.ok, true,
          [.rst true, .xch [0x55, 0x43, 0x11, 0x22, 0x33, 0x44, 0x55, 0x66, 0x77] (any 9)], 0x1234) := by decide +kernel

/-- V21. -/
theorem test_select_absent :
    look (fun t => (t.status, t.present, t.trace, t.rvalid)) (exec .select absent)
      = some (.deviceAbsent, false, [.rst false], false) := by decide +kernel

/-! ### Page Reader -/

/-- V30, V36: the received header positions are ignored. -/
theorem test_readPage_ok :
    look (fun t => (t.status, t.rvalid, t.rdata, t.acc)) (exec .readPage goodRead)
      = some (.ok, true, page42, 0xB001) := by decide +kernel

/-- V31: one wrong bit, `RDATA` as before. -/
theorem test_readPage_mismatch :
    look (fun t => (t.status, t.rvalid, t.rdata, t.acc)) (exec .readPage badRead)
      = some (.integrityMismatch, false, base.rdata, 0xBE01) := by decide +kernel

/-- V37. -/
theorem test_readPageC_ok :
    look (fun t => (t.status, t.acc, t.rdata.toList)) (exec .readPageC { goodCont with acc := 0xB001 })
      = some (.ok, 0xB001, (List.range 32).map fun k => BitVec.ofNat 8 (0x20 + k)) := by decide +kernel

/-- V38. -/
theorem test_readPageC_mismatch :
    look (fun t => (t.status, t.acc, t.present, t.rvalid)) (exec .readPageC badCont)
      = some (.integrityMismatch, 0x9B01, base.present, false) := by decide +kernel

/-! ### Page Writer -/

/-- V39, first row, and its frame. -/
theorem test_writeScratchpad_ok :
    look (fun t => (t.status, t.acc, t.wstate, t.trace.getLast?)) (exec .writeScratchpad (phase1Good [] []))
      = some (.ok, 0xB001, .idle,
          some (.xch ([0x0F, 0x60, 0x00] ++ List.replicate 32 0x42 ++ [0xFF, 0xFF]) (any 35 ++ [0xB7, 0xF3]))) := by
  decide +kernel

/-- V39: B6 F3 returned. -/
theorem test_writeScratchpad_mismatch :
    look (fun t => (t.status, t.acc)) (exec .writeScratchpad phase1Bad) = some (.integrityMismatch, 0x2000) := by
  decide +kernel

/-- V41. The settling delay has no value, so its event is compared as it stands. -/
theorem test_copyScratchpad_ok :
    look (fun t => (t.status, t.conf, t.acc, t.busPower, t.trace.length)) (exec .copyScratchpad (copying 0xAA))
      = some (.ok, 0xAA, 0x1234, .standard, 8) := by decide +kernel

/-- V44. -/
theorem test_copyScratchpad_ambiguous :
    look (fun t => (t.status, t.conf, t.busPower)) (exec .copyScratchpad (copying 0x5A))
      = some (.commitAmbiguous, 0x5A, .standard) := by decide +kernel

/-- What V46 to V51 tabulate of a `WRITE_PAGE`: `STATUS`, `WSTATE`, `ACC`, `CONF` and the number of events. -/
def outcomeOf (s : State) : Option (Status × WState × Word × Byte × Nat) :=
  look (fun t => (t.status, t.wstate, t.acc, t.conf, t.trace.length)) (exec .writePage s)

/-- V46 to V49. -/
theorem test_writePage_failures :
    [absent, phase1Bad, phase1Good [false] [], phase1Good [true] [0x5A]].map outcomeOf
      = [some (.deviceAbsent, .aborted, 0x1234, 0, 1), some (.integrityMismatch, .aborted, 0x2000, 0, 3),
        some (.deviceAbsent, .unknown, 0xB001, 0, 4), some (.commitAmbiguous, .unknown, 0xB001, 0x5A, 11)] := by
  decide +kernel

/-- V50, V51. -/
theorem test_writePage_ok :
    [phase1Good [true] [0x55], phase1Good [true] [0xAA]].map outcomeOf
      = [some (.ok, .committed, 0xB001, 0x55, 11), some (.ok, .committed, 0xB001, 0xAA, 11)] := by decide +kernel

/-! ### Bus frames -/

/-- R75, R108: what comes back does not reach `ID`. -/
theorem test_wMatch :
    look (fun t => (t.tb.toList.take 9, t.tbLen, t.id)) (exec (.wMatch ident) (answering [] (any 9) []))
      = some (any 9, 9, ident) := by decide +kernel

/-- V30: the header folds to 2338, then 34 received bytes to B001. -/
theorem test_wRead :
    look State.acc (exec (.wRead 0x0060)
      { answering [] (any 3 ++ List.replicate 32 0x42 ++ [0xA5, 0xE1]) [] with acc := 0 }) = some 0xB001 := by
  decide +kernel

/-- V7, V38: 34 bytes FF fold from 0 to 9B01. -/
theorem test_wReadc :
    look State.acc (exec .wReadc { badCont with acc := 0 }) = some 0x9B01 := by decide +kernel

/-- V39, last row: a misaligned address is sent unchanged. -/
theorem test_wWsp :
    look (fun t => (t.acc, (t.trace.map fun e => match e with | .xch tx _ => tx.take 3 | _ => [])))
      (exec (.wWsp 0x0061 page42) { answering [] (any 35 ++ [0xB6, 0x1E]) [] with acc := 0 })
      = some (0xB001, [[0x0F, 0x61, 0x00]]) := by decide +kernel

/-- R79. -/
theorem test_wCopy :
    look (fun t => (t.trace, t.acc)) (exec (.wCopy 0x09E0) (answering [] (any 3) []))
      = some ([.xch [0x55, 0xE0, 0x09] (any 3)], 0x1234) := by decide +kernel

/-- R80. -/
theorem test_wAuth :
    look (fun t => (t.trace, t.acc)) (exec .wAuth (answering [] [0x77] [])) = some ([.xch [0x1F] [0x77]], 0x1234) := by
  decide +kernel

/-! ### The machine -/

/-- R84, R151: a reserved byte and a command while busy are refused. -/
theorem test_refusals :
    refuses (step { base with inbox := [.command 0x08] }) = true ∧ refuses (present 0x04 { base with busy := true }) = true := by
  decide +kernel

/-- R166, U12: a transport that hangs in its first call, and one that hangs in its third: `SELECT`, which makes two, completes,
and `WRITE_PAGE` hangs before its scratchpad frame. -/
theorem test_hung_transport :
    faults (exec .select (hanging 0)) = true ∧ faults (exec .crcAcc (hanging 0)) = false ∧
    faults (exec .select (hanging 2)) = false ∧
    stuckAs (fun p => (p.busy, p.seq, p.trace.length)) (exec .writePage { hanging 2 with busy := true })
      = some (true, .wsXchg, 2) := by decide +kernel

/-- P3: `READ_PAGE 0` and one `READ_PAGE.C` against `ENV`. -/
theorem test_reference_reads :
    (look id (exec .readPage (rising 0))).map (fun t =>
      (t.status, t.rdata.toList == (List.range 32).map (BitVec.ofNat 8 ·),
        look (fun u => (u.status, u.rdata.toList == (List.range 32).map fun k => BitVec.ofNat 8 (32 + k))) (exec .readPageC t)))
      = some (.ok, true, some (.ok, true)) := by decide +kernel

/-- V39 against `ENV`: the device answers B7 F3 and stages the block. -/
theorem test_reference_scratchpad :
    look (fun t => (t.status, (t.env.bind Env.scratch), (t.trace.getLast?.map fun e => match e with
        | .xch _ rx => rx.drop 35 | _ => []))) (exec .writeScratchpad { rising 3 with env := some { risingEnv with nPages := 8 } })
      = some (.ok, some { addr := 0x0060, data := page42 }, some [0xB7, 0xF3]) := by decide +kernel

/-- R65: `ENV` answers a read at a misaligned address with the bytes from there on; PIOC itself never sends one (R76). -/
theorem test_reference_misaligned_read :
    look (fun t => t.tb.toList.take 5)
        (exec (.wRead 0x0001) { base with env := some { risingEnv with phase := .selected } })
      = some [0xA5, 0x01, 0x00, 0x01, 0x02] := by decide +kernel

/-- R64, R68: with nobody selected `ReadByte()` finds 0xFF even after a copy that is done. -/
theorem test_reference_unselected_confirmation :
    (exec (.wWsp 0x0040 page42) { base with env := some { risingEnv with phase := .selected, copyDone := true } } |>
      look fun t => (readByte t).conf) = some 0xFF := by decide +kernel

/-- R67, R68: a block staged again while a copy is armed leaves it armed for its own address. -/
theorem test_reference_restaged :
    (exec (.wWsp 0x0040 page42) { base with env := some { risingEnv with phase := .selected, armed := some 0x0020 } } |>
      look fun t => t.env.bind Env.armed) = some (some 0x0020) := by decide +kernel

/-- R68: under strong power an armed copy stores the scratchpad, and the confirmation byte is then a toggle byte. -/
theorem test_reference_commit (e : Env) (sp : Scratchpad) (h : e.scratch = some sp) (a : Word) (ha : e.armed = some a)
    (hp : e.phase = .selected) (p : Bool) :
    (e.sleep Config.tSettle .strong).mem = e.mem.writeBlock a.toNat sp.data.toList ∧
      confOk ((e.sleep Config.tSettle .strong).confirmByte p) = true := by
  cases p <;> simp [Env.sleep, h, ha, hp, Env.confirmByte, Env.toggles, confOk]

/-! ### Witnesses: for each statement with hypotheses, states and operands that meet them -/

/-- At the highest address a page can have, and with no constraint on the others. -/
theorem witness_DecodeOfEncodeIsTheInstruction :
    (Instr.wRead 0xFFE0).wellFormed = true ∧ (Instr.wCopy 0xFFFF).wellFormed = true := by decide

theorem witness_AcceptedBytesAreTheEncoding :
    decode .host [0x14] = .ok .readPageC ∧ decode .wmem [0x55, 0xFF, 0xFF] = .ok (.wCopy 0xFFFF) := ⟨rfl, rfl⟩

/-- Each way to be reserved, by one byte that is reserved in that way alone, and two bytes that are not. -/
theorem witness_ReservedCommandBytesAreRefused :
    base.busy = false ∧ (0x20 : Byte).extractLsb' 5 3 ≠ 0 ∧ 8 ≤ ((0x08 : Byte).extractLsb' 0 4).toNat ∧
    ((0x13 : Byte).getLsbD 4 = true ∧ (0x13 : Byte).extractLsb' 0 4 ≠ 4) ∧
    (∀ b ∈ [(0x07 : Byte), 0x14], ¬(b.extractLsb' 5 3 ≠ 0 ∨ 8 ≤ (b.extractLsb' 0 4).toNat ∨
      (b.getLsbD 4 = true ∧ b.extractLsb' 0 4 ≠ 4))) := by decide

theorem witness_PageAddressLaw : (3 : Word).toNat = (2051 : Word).toNat % 2048 := by decide

/-- V2. -/
theorem witness_UpdateBitByBit :
    (0x62 : Byte) = 0x56 ^^^ lo8 0x1234 ∧ (0x12 : Byte) = hi8 0x1234 ∧ (0xE993 : Word) = crc16Update 0x1234 0x56 := by
  decide

theorem witness_UpdateAlgebra : [(0x01 : Byte)].length = [(0x80 : Byte)].length := by decide

/-- The first bit and the last bit of V6's frame. -/
theorem witness_SingleBitErrorsAreDetected :
    crc16Fold 0 ([] ++ [(0xFF : Byte)] ++ [0xFF]) = 0xB001 ∧ crc16Fold 0 ([0xFF] ++ [(0xFF : Byte)] ++ []) = 0xB001 ∧
    0 < 8 ∧ 7 < 8 := by decide

/-- The shortest and the longest exchange; `TB` keeps its length. -/
theorem witness_ExchangeOverwritesInPlace :
    0 ≤ 37 ∧ 37 ≤ 37 ∧ (exchange 37 base).tb.toList.length = 37 := by decide +kernel

theorem witness_OracleAnswersInOrder :
    (answering [true, false] (any 37 ++ [1]) [0x55, 0xAA]).env = none ∧
    (answering [true, false] (any 37 ++ [1]) [0x55, 0xAA]).oracle.presence = true :: [false] ∧
    (answering [true, false] (any 37 ++ [1]) [0x55, 0xAA]).oracle.rx = any 37 ++ [1] ∧
    (answering [true, false] (any 37 ++ [1]) [0x55, 0xAA]).oracle.confirm = 0x55 :: [0xAA] ∧ (any 37).length ≤ 37 := by
  decide

/-- The longest operation, with its 11 calls, and one with none. -/
theorem witness_AtMostElevenTransportCalls :
    look (fun t => t.trace.length) (exec .writePage (phase1Good [true] [0x55])) = some 11 ∧
    look (fun t => t.trace.length) (exec .crcAcc base) = some 0 ∧ Instr.crcAcc ∈ crcOps := by decide +kernel

theorem witness_HungTransportStopsAllButTheCrcEngine :
    (hanging 0).hangAt = some (hanging 0).trace.length ∧ (hanging 0).envOutside = false ∧ Instr.crcReset ∈ crcOps ∧
    Instr.wAuth ∉ crcOps := by decide

/-- The oracle answers presence, and absence. -/
theorem witness_SelectResult :
    (answering [true] (any 9) []).oracleAnswers ∧ absent.oracleAnswers ∧
    look State.present (exec .select (answering [true] (any 9) [])) = some true ∧
    look State.present (exec .select absent) = some false :=
  ⟨⟨rfl, rfl⟩, ⟨rfl, rfl⟩, by decide +kernel, by decide +kernel⟩

theorem witness_AbsentDeviceEndsEverySelectingOperation :
    Instr.writePage ∈ selectingOps ∧ Instr.select ∈ selectingOps ∧ absent.oracleAnswers ∧ (busReset absent).1 = false :=
  ⟨by decide, by decide, ⟨rfl, rfl⟩, rfl⟩

/-- No device; a good read; a bad one. -/
theorem witness_ReadPageResult :
    absent.oracleAnswers ∧ goodRead.oracleAnswers ∧
    [absent, goodRead, badRead].map (fun s => look (fun t => (t.present, t.acc)) (exec .readPage s))
      = [some (false, 0x1234), some (true, 0xB001), some (true, 0xBE01)] :=
  ⟨⟨rfl, rfl⟩, ⟨rfl, rfl⟩, by decide +kernel⟩

theorem witness_ContinuedReadResult :
    goodCont.oracleAnswers ∧
    [goodCont, badCont].map (fun s => look State.acc (exec .readPageC s)) = [some 0xB001, some 0x9B01] :=
  ⟨⟨rfl, rfl⟩, by decide +kernel⟩

theorem witness_WriteScratchpadResult :
    (phase1Good [] []).oracleAnswers ∧
    [absent, phase1Good [] [], phase1Bad].map (fun s => look (fun t => (t.present, t.acc)) (exec .writeScratchpad s))
      = [some (false, 0x1234), some (true, 0xB001), some (true, 0x2000)] :=
  ⟨⟨rfl, rfl⟩, by decide +kernel⟩

theorem witness_CopyScratchpadResult :
    (copying 0x55).oracleAnswers ∧
    [absent, copying 0x55, copying 0xAA, copying 0xFF].map
        (fun s => look (fun t => (t.present, t.status)) (exec .copyScratchpad s))
      = [some (false, .deviceAbsent), some (true, .ok), some (true, .ok), some (true, .commitAmbiguous)] :=
  ⟨⟨rfl, rfl⟩, by decide +kernel⟩

theorem witness_CopySucceedsIffToggleByte :
    look (fun t => (t.present, t.status)) (exec .copyScratchpad (copying 0x55)) = some (true, .ok) ∧
    look (fun t => (t.present, t.status)) (exec .copyScratchpad (copying 0x54)) = some (true, .commitAmbiguous) := by
  decide +kernel

/-- The five paths: V46 to V49 and V51. -/
theorem witness_WritePageResult :
    (phase1Good [true] [0xAA]).oracleAnswers ∧
    [absent, phase1Bad, phase1Good [false] [], phase1Good [true] [0x5A], phase1Good [true] [0xAA]].map
        (fun s => (outcomeOf s).map fun r => r.2.1)
      = [some .aborted, some .aborted, some .unknown, some .unknown, some .committed] :=
  ⟨⟨rfl, rfl⟩, by decide +kernel⟩

/-- Both clauses: Phase 1 fails, Phase 1 succeeds. -/
theorem witness_WritePageIsScratchpadThenCopy :
    (outcomeOf phase1Bad).isSome = true ∧ (outcomeOf (phase1Good [true] [0x55])).isSome = true ∧
    look State.status (exec .writeScratchpad { phase1Bad with argAddr := pageAddr phase1Bad.argPidx })
      = some .integrityMismatch ∧
    look State.status (exec .writeScratchpad { phase1Good [true] [0x55] with argAddr := pageAddr base.argPidx })
      = some .ok := by decide +kernel

theorem witness_AbortedWriteNeverStartsPhase2 :
    look State.wstate (exec .writePage absent) = some .aborted ∧
    look State.wstate (exec .writePage phase1Bad) = some .aborted ∧
    (phase1 (pageAddr base.argPidx) page42 (setWState .idle phase1Bad)).1 = .integrityMismatch := by decide +kernel

theorem witness_UnfoldedFramesResult :
    base.oracleAnswers ∧ [Instr.wMatch ident, .wCopy 0xFFFF, .wAuth].all
      (fun i => (look (fun _ => ()) (exec i base)).isSome) = true := ⟨⟨rfl, rfl⟩, by decide +kernel⟩

theorem witness_FoldedFramesResult :
    base.oracleAnswers ∧ [Instr.wRead 0xFFE0, .wReadc, .wWsp 0xFFFF page42].all
      (fun i => (look (fun _ => ()) (exec i base)).isSome) = true := ⟨⟨rfl, rfl⟩, by decide +kernel⟩

theorem witness_IdentifierAndLatchesAreNeverWritten :
    (look (fun _ => ()) (exec .writePage (phase1Good [true] [0x55]))).isSome = true := by decide +kernel

/-- Every cell of R139's table that is not empty. -/
theorem witness_FailuresAreThoseOfTheTable :
    [exec .select absent, exec .readPage absent, exec .readPage badRead, exec .readPageC badCont,
      exec .writeScratchpad absent, exec .writeScratchpad phase1Bad, exec .copyScratchpad absent,
      exec .copyScratchpad (copying 0x5A), exec .writePage absent, exec .writePage (phase1Good [false] []),
      exec .writePage phase1Bad, exec .writePage (phase1Good [true] [0x5A])].map (look State.result)
      = [some (.failure .deviceAbsent), some (.failure .deviceAbsent), some (.failure .integrityMismatch),
        some (.failure .integrityMismatch), some (.failure .deviceAbsent), some (.failure .integrityMismatch),
        some (.failure .deviceAbsent), some (.failure .commitAmbiguous), some (.failure .deviceAbsent),
        some (.failure .deviceAbsent), some (.failure .integrityMismatch), some (.failure .commitAmbiguous)] := by
  decide +kernel

theorem witness_FailureLeavesNoData :
    Instr.readPage ∈ hostOps ∧ Instr.readPage ∉ crcOps ∧ badRead.busPower = .standard ∧
    look State.status (exec .readPage badRead) = some .integrityMismatch := by decide +kernel

theorem witness_EveryOperationEnds :
    hostOps.length = 9 ∧ base.busPower = .standard ∧
    hostOps.all (fun i => (look (fun _ => ()) (exec i base)).isSome) = true := by decide +kernel

/-- Every operation answers a next state, and each clause's list names one of them and leaves one out. -/
theorem witness_OperationsWriteOnlyTheirRegisters :
    hostOps.all (fun i => (look (fun _ => ()) (exec i base)).isSome) = true ∧
    Instr.copyScratchpad ∈ hostOps ∧ Instr.crcAcc ∈ crcOps ∧ Instr.writePage ∈ hostOps ∧ Instr.readPageC ∈ hostOps := by
  decide +kernel

theorem witness_BusOperationsDoNotReadAcc : Instr.readPageC ∈ hostOps ∧ Instr.readPageC ∉ crcOps := by decide

theorem witness_StepRunsTheCommandedOperation :
    ({ base with inbox := [.command 0x14] } : State).busy = false ∧
    ({ base with inbox := [.command 0x14] } : State).inbox = .command 0x14 :: [] ∧
    decode .host [0x14] = .ok .readPageC := ⟨rfl, rfl, rfl⟩

/-- A busy PIOC at the beginning of a frame of the operation with code `opc`. -/
def atFrame (opc : BitVec 4) (cont : Bool) (q : Seq) : State :=
  { base with busy := true, opc := opc, argCont := cont, seq := q }

/-- Each of the six clauses: busy, at its position, and the frame answers a next state. -/
theorem witness_StepRunsTheFrameAtThePosition :
    [(atFrame 3 false .selMatch, Instr.wMatch ident), (atFrame 4 false .rdHdr, .wRead (pageAddr 3)),
      (atFrame 4 true .rdHdr, .wReadc), (atFrame 5 false .wsBuild, .wWsp (writeAddr (atFrame 5 false .wsBuild)) page42),
      (atFrame 7 false .cpCmd, .wCopy (writeAddr (atFrame 7 false .cpCmd))), (atFrame 6 false .cpAuth, .wAuth)].all
      (fun p => p.1.busy && (look (fun _ => ()) (exec p.2 p.1)).isSome && decide (frameAt p.1 = some p.2)) = true := by
  decide +kernel

theorem witness_BusyCommandIsRefused : (atFrame 4 true .rdHdr).busy = true := rfl

theorem witness_OutsideMovesWriteTheirLatchOnly :
    base.busy = false ∧ base.inbox = [] ∧
    ({ base with inbox := [.provideId ident] } : State).inbox = .provideId ident :: [] ∧
    ({ base with inbox := [.writeArgByte 1] } : State).inbox = .writeArgByte 1 :: [] ∧
    ({ base with inbox := [.writeArgPidx 1] } : State).inbox = .writeArgPidx 1 :: [] ∧
    ({ base with inbox := [.writeArgAddr 1] } : State).inbox = .writeArgAddr 1 :: [] ∧
    ({ base with inbox := [.writeWdata page42] } : State).inbox = .writeWdata page42 :: [] :=
  ⟨rfl, rfl, rfl, rfl, rfl, rfl, rfl⟩

/-- A `WRITE_PAGE` about to be presented. -/
def commanded : State := { base with inbox := [.command 0x07] }
/-- A `WRITE_PAGE` in Phase 2, under strong power. -/
def committing : State := { atFrame 7 false .cpAuth with wstate := .scratchpadStaged, busPower := .strong }

/-- The invariant, between operations, and in Phase 2 of a `WRITE_PAGE` under strong power. -/
theorem witness_StepKeepsTheInvariant :
    commanded.Inv ∧ committing.Inv ∧ (look (fun _ => ()) (step commanded)).isSome = true ∧
    (look (fun _ => ()) (step committing)).isSome = true :=
  ⟨⟨fun _ => ⟨⟨rfl, rfl, rfl⟩, by decide⟩, (fun h => by cases h), by decide, trivial⟩,
    ⟨(fun h => by cases h), fun _ => ⟨.inr ⟨by decide, rfl⟩, rfl⟩, by decide, trivial⟩, by decide +kernel, by decide +kernel⟩

/-- Every operation is in progress at the beginning, under its code. -/
theorem witness_SequencerStepsMatchTheOperation :
    [(0, false), (1, false), (2, false), (3, false), (4, false), (4, true), (5, false), (6, false), (7, false)].map
        (fun p => runningOp (atFrame p.1 p.2 .idle))
      = [some .crcReset, some .crcAcc, some .crcCheck, some .select, some .readPage, some .readPageC,
        some .writeScratchpad, some .copyScratchpad, some .writePage] := by decide +kernel

/-- The bound is reached: a `WRITE_PAGE` that commits takes 14 steps, and they end where the operation ends. -/
theorem test_writePage_in_fourteen_steps :
    (look (fun t => (t.busy, t.seq, t.status, t.wstate, t.trace.length))
      (runSteps 14 { phase1Good [true] [0x55] with busy := true, opc := 7 })
      = some (false, .idle, .ok, .committed, 11)) ∧
    (look (fun t => t.busy) (runSteps 13 { phase1Good [true] [0x55] with busy := true, opc := 7 })
      = some true) := by decide +kernel

theorem witness_ReferenceReadReturnsThePage :
    (rising 2).deviceReady risingEnv ∧ (rising 2).argPidx.toNat < risingEnv.nPages :=
  ⟨⟨rfl, rfl, rfl, rfl, rfl, by decide⟩, by decide⟩

theorem witness_ReferenceWriteThenReadReturnsTheData :
    (rising 2).deviceReady risingEnv ∧ (rising 2).argPidx.toNat < risingEnv.nPages ∧ risingEnv.mem.wf = true :=
  ⟨⟨rfl, rfl, rfl, rfl, rfl, by decide⟩, by decide, by decide +kernel⟩

theorem witness_ReferenceContinuedReadReturnsTheNextPage :
    (rising 1).deviceReady risingEnv ∧ (rising 1).argPidx.toNat + 1 < risingEnv.nPages :=
  ⟨⟨rfl, rfl, rfl, rfl, rfl, by decide⟩, by decide⟩

theorem witness_ReferenceAbsentDeviceIsReported :
    Instr.copyScratchpad ∈ selectingOps ∧ absentEnv.bounded = true ∧
    absentEnv.env = some { risingEnv with present := false } ∧
    look State.status (exec .copyScratchpad absentEnv) = some .deviceAbsent :=
  ⟨by decide, rfl, rfl, by decide +kernel⟩

/-- A device that does not match `ID`: every transaction finds nobody selected. -/
def strangerEnv : Env := { risingEnv with devId := Vector.replicate 8 0 }

/-- A form that is no copy, a copy with nothing staged, and a `WRITE_PAGE` whose Phase 1 fails because another device is there. -/
theorem witness_OnlyACopyChangesTheMemory :
    (rising 2).env = some risingEnv ∧ risingEnv.mem.wf = true ∧
    (look (fun _ => ()) (exec .readPage (rising 2))).isSome = true ∧
    look (fun t => (t.status, t.env.map Env.mem)) (exec .copyScratchpad (rising 2))
      = some (.commitAmbiguous, some risingMemory) ∧
    look (fun t => (t.wstate, t.env.map Env.mem)) (exec .writePage { rising 2 with env := some strangerEnv })
      = some (.aborted, some risingMemory) := ⟨rfl, by decide +kernel, by decide +kernel, by decide +kernel, by decide +kernel⟩

/-- `risingEnv` with a block staged for the page before the one that `base` addresses. -/
def stagedEnv : Env := { risingEnv with scratch := some { addr := 0x0040, data := page42 } }
/-- PIOC in front of it. -/
def stagedElsewhere : State := { base with env := some stagedEnv }

/-- Nothing staged, and a block staged for another page, which stays staged. -/
theorem witness_ReferenceCopyNeedsTheStagedAddress :
    ((rising 2).deviceReady risingEnv ∧ ∀ sp, risingEnv.scratch = some sp → sp.addr ≠ (rising 2).argAddr) ∧
    (stagedElsewhere.deviceReady stagedEnv ∧ ∀ sp, stagedEnv.scratch = some sp → sp.addr ≠ stagedElsewhere.argAddr) ∧
    look (fun t => (t.status, t.env.bind Env.scratch)) (exec .copyScratchpad stagedElsewhere)
      = some (.commitAmbiguous, stagedEnv.scratch) :=
  ⟨⟨⟨rfl, rfl, rfl, rfl, rfl, by decide⟩, by rintro _ ⟨⟩⟩,
    ⟨⟨rfl, rfl, rfl, rfl, rfl, by decide⟩, by rintro _ ⟨⟩; decide⟩, by decide +kernel⟩

/-- `risingEnv` in some phase, and PIOC in front of it. -/
def phasedEnv (ph : Phase) : Env := { risingEnv with phase := ph }
def phased (ph : Phase) : State := { base with env := some (phasedEnv ph) }

/-- The first page past the end; a continued read at the first position past the end, and after a read of the last page;
a misaligned address. -/
theorem witness_ReferenceEnvironmentRefusesOutsideItsDefinition :
    ((rising 3).deviceReady risingEnv ∧ risingEnv.nPages * 32 ≤ (pageAddr (rising 3).argPidx).toNat + 31 ∧
      refuses (exec .readPage (rising 3)) = true) ∧
    ((phased (.reading 65)).deviceReady (phasedEnv (.reading 65)) ∧ (phasedEnv (.reading 65)).nPages * 32 ≤ 65 + 31 ∧
      refuses (exec .readPageC (phased (.reading 65))) = true ∧ refuses (exec .readPageC (phased (.reading 64))) = false) ∧
    ((rising 2).argPidx.toNat + 1 = risingEnv.nPages ∧
      (look id (exec .readPage (rising 2))).map (fun t => (t.status, refuses (exec .readPageC t))) = some (.ok, true)) ∧
    ({ rising 3 with argAddr := 0x0061 } : State).argAddr.extractLsb' 0 5 ≠ 0 ∧
    refuses (exec .writeScratchpad { rising 3 with argAddr := 0x0061 }) = true :=
  ⟨⟨⟨rfl, rfl, rfl, rfl, rfl, by decide⟩, by decide, by decide +kernel⟩,
    ⟨⟨rfl, rfl, rfl, rfl, rfl, by decide⟩, by decide, by decide +kernel, by decide +kernel⟩,
    ⟨by decide, by decide +kernel⟩, by decide, by decide +kernel⟩

/-- Each kind of stop, and in every phase a frame that answers a next state though R64 to R68 give it no answer. -/
theorem witness_ReferenceEnvironmentRefusesNothingElse :
    ((rising 2).bounded = true ∧ (rising 2).env = some risingEnv ∧ risingEnv.outside = false) ∧
    [exec .readPage (rising 3), exec (.wRead 65) (phased .selected), exec .wReadc (phased (.reading 65)),
      exec (.wWsp 1 page42) (phased .selected)].map refuses = [true, true, true, true] ∧
    [exec (.wCopy 0) (phased .rom), exec (.wMatch ident) (phased .selected), exec (.wRead 0) (phased (.reading 65)),
      exec .wAuth (phased .stray)].map refuses = [false, false, false, false] :=
  ⟨⟨rfl, rfl, rfl⟩, by decide +kernel, by decide +kernel⟩

/-- Nobody selected; and after a `SELECT`, 34 bytes that the oracle gives, which validate or do not (V37, V38). -/
theorem witness_ReferenceContinuedReadOutsideASequenceRuns :
    ((phased .unselected).bounded = true ∧ (phased .unselected).env = some (phasedEnv .unselected) ∧
      (phasedEnv .unselected).outside = false ∧ (phasedEnv .unselected).phase = .unselected) ∧
    [goodCont, badCont].map (fun s =>
        (s.oracle.rx.length, look State.status (exec .readPageC { s with env := some (phasedEnv .selected) })))
      = [(34, some .ok), (34, some .integrityMismatch)] :=
  ⟨⟨rfl, rfl, rfl, rfl⟩, by decide +kernel⟩

/-- Each clause in its phase: another device's identifier; the last address inside, which is misaligned; the last page in
continued mode; a page past the end. -/
theorem witness_ReferenceEnvironmentAnswersFrames :
    ((phased .rom).bounded = true ∧ (phased .rom).env = some (phasedEnv .rom) ∧ (phasedEnv .rom).outside = false ∧
      (Vector.replicate 8 0 : Bytes 8) ≠ (phasedEnv .rom).devId) ∧
    ((63 : Word).toNat + 31 < (phasedEnv .selected).nPages * 32 ∧ 64 + 31 < (phasedEnv (.reading 64)).nPages * 32 ∧
      (0x0FE0 : Word).extractLsb' 0 5 = 0) ∧
    [exec (.wMatch (Vector.replicate 8 0)) (phased .rom), exec (.wRead 63) (phased .selected),
        exec .wReadc (phased (.reading 64)), exec (.wWsp 0x0FE0 page42) (phased .selected)].map
        (look fun t => t.env.map Env.phase)
      = [some (some .unselected), some (some (.reading 95)), some (some (.reading 96)), some (some .unselected)] :=
  ⟨⟨rfl, rfl, rfl, by decide⟩, by decide, by decide +kernel⟩

/-- A PIOC with something in every register that R33 names, about to be reset. -/
def resetting : State :=
  { base with wstate := .committed, tbLen := 9, trace := [.rst true], inbox := [.hardReset, .command 0x00] }

theorem witness_HardwareResetOfAnIdlePioc :
    resetting.busy = false ∧ resetting.inbox = .hardReset :: [.command 0x00] ∧ resetting.rvalid = true ∧
    look (fun t => (t.rvalid, t.wstate, t.tbLen, t.trace, t.inbox)) (step resetting)
      = some (false, .idle, 0, [.rst true], [.command 0x00]) := ⟨rfl, rfl, rfl, by decide +kernel⟩

/-- The first call of an operation and the last of the longest one hang; and a step that begins an operation. -/
theorem witness_HungOperationStaysBusyAtTheCall :
    [exec .writePage (hanging 0), exec .writePage (hanging 10),
        step { hanging 3 with inbox := [.command 0x07] }].map
        (stuckAs fun p => (p.hangAt == some p.trace.length, p.busy, p.seq, p.trace.length))
      = [some (true, false, .selReset, 0), some (true, false, .cpConf, 10), some (true, true, .selReset, 3)] := by
  decide +kernel

/-- `WRITE_PAGE` completes on the bounded transport with 11 events; it hangs after two of them, and completes where the call
that never returns is the one after its last. -/
theorem witness_OnlyTheHangingCallStopsAnInstruction :
    look (fun t => t.trace.length) (exec .writePage { hanging 2 with hangAt := none }) = some 11 ∧
    stuckAs (fun p => p.trace) (exec .writePage (hanging 2))
      = some [.rst true, .xch (0x55 :: ident.toList) (any 9)] ∧
    look (fun t => (t.status, t.hangAt)) (exec .writePage (hanging 11)) = some (.ok, some 11) := by decide +kernel

end Sys2Proof.Tests
end

section
/-! PROOFS. The sequencer's steps and the operation taken as a whole (R11, R24). `Runs n s calls t` says that `n` steps
from `s` are exactly the delivery of the work `calls` that ends in `t`. Such runs compose, each control position in which
a run comes by is one of them, and the run of each operation is composed of these. -/

namespace Sys2Proof.Machine

variable {s t u : State} {calls more : List State} {n m : Nat}

/-! ### Runs that go on -/

/-- What `m` more steps make of an outcome: a next state is run on, a stop stays. -/
def runOn (m : Nat) : Host.Outcome State Fault Refusal → Host.Outcome State Fault Refusal
  | .next t => runSteps m t
  | .fault r => .fault r
  | .refused r => .refused r

theorem runSteps_add (n m : Nat) (s : State) : runSteps (n + m) s = runOn m (runSteps n s) := by
  induction n generalizing s with
  | zero => rw [Nat.zero_add]; rfl
  | succ n ih =>
    rw [Nat.add_right_comm]
    cases h : step s with
    | next t => rw [runSteps_succ_of_next h, runSteps_succ_of_next h, ih]
    | fault r => rw [runSteps_succ_of_fault h, runSteps_succ_of_fault h]; rfl
    | refused r => rw [runSteps_succ_of_refused h, runSteps_succ_of_refused h]; rfl

theorem runSteps_one (s : State) : runSteps 1 s = step s := by
  cases h : step s with
  | next t => exact runSteps_succ_of_next h
  | fault r => exact runSteps_succ_of_fault h
  | refused r => exact runSteps_succ_of_refused h

/-! ### Delivery, in parts -/

/-- Of the state work begins in, its delivery looks only at which call hangs and whether there is an environment. -/
theorem deliver_congr (hh : t.hangAt = s.hangAt) (he : t.env.isSome = s.env.isSome) :
    deliver t calls u = deliver s calls u := by
  simp only [deliver, unlessRefused, hungCall_congr hh, he]

/-- Work with the environment outside its definition at every call and at the end is refused, hanging or not. -/
theorem deliver_of_left {e : Env} (he : s.env = some e) (hc : ∀ p ∈ calls, p.envOutside = true)
    (ht : t.envOutside = true) : deliver s calls t = .refused .environmentUndefined := by
  cases h : hungCall s calls with
  | some p => rw [deliver_hung h, unlessRefused_of_outside he (hc p (hungCall_some h).1)]
  | none => exact deliver_of_outside h he ht

/-- Steps after delivered work: what stops the work stops the whole, and without a stop the work goes on. -/
theorem runOn_deliver (go : s.env = none ∨ t.envOutside = false → runSteps m t = deliver s more u)
    (left : ∀ e, s.env = some e → t.envOutside = true → deliver s more u = .refused .environmentUndefined) :
    runOn m (deliver s calls t) = deliver s (calls ++ more) u := by
  cases hc : hungCall s calls with
  | some p =>
    rw [deliver_hung hc, deliver_hung (calls := calls ++ more) (by rw [hungCall_append, hc]; rfl)]
    unfold unlessRefused
    split <;> rfl
  | none =>
    have hmore : deliver s (calls ++ more) u = deliver s more u := by
      simp only [deliver, hungCall_append, hc, Option.none_or]
    have hcalls : deliver s calls t = unlessRefused s t (.next t) := by rw [deliver, hc]
    rw [hmore, hcalls]
    cases he : s.env with
    | none => rw [unlessRefused_of_none he, ← go (.inl he)]; rfl
    | some e =>
      cases ho : t.envOutside with
      | true => rw [unlessRefused_of_outside he ho, left e he ho]; rfl
      | false => rw [unlessRefused_of_inside ho, ← go (.inr ho)]; rfl

/-! ### Runs of delivered work -/

/-- `n` steps from `s` are the delivery of the work `calls` that ends in `t`. What the delivery of further work from `t`
looks at is as in `s`, and an environment that has left its definition is outside it at every call and at the end. -/
structure Runs (n : Nat) (s : State) (calls : List State) (t : State) : Prop where
  run : runSteps n s = deliver s calls t
  hangAt : t.hangAt = s.hangAt
  hasEnv : t.env.isSome = s.env.isSome
  callsLeft : s.envOutside = true → ∀ p ∈ calls, p.envOutside = true
  endLeft : s.envOutside = true → t.envOutside = true

/-- One step that makes one call. -/
theorem Runs.of_step {p : State} (hs : step s = deliver s [p] t) (hh : t.hangAt = s.hangAt)
    (he : t.env.isSome = s.env.isSome) (hp : p.envOutside = s.envOutside)
    (ht : t.envOutside = false → s.envOutside = false) : Runs 1 s [p] t where
  run := (runSteps_one s).trans hs
  hangAt := hh
  hasEnv := he
  callsLeft := fun ho q hq => by rw [List.mem_singleton.mp hq, hp, ho]
  endLeft := fun ho => by
    by_contra h
    rw [ht (Bool.not_eq_true _ ▸ h)] at ho
    cases ho

/-- Work after work. -/
theorem Runs.trans (h : Runs n s calls t) (g : Runs m t more u) : Runs (n + m) s (calls ++ more) u where
  run := by
    have hmore : deliver t more u = deliver s more u := deliver_congr h.hangAt h.hasEnv
    rw [runSteps_add, h.run]
    exact runOn_deliver (fun _ => g.run.trans hmore) fun e he ho => deliver_of_left he (g.callsLeft ho) (g.endLeft ho)
  hangAt := g.hangAt.trans h.hangAt
  hasEnv := g.hasEnv.trans h.hasEnv
  callsLeft := fun ho p hp =>
    (List.mem_append.mp hp).elim (h.callsLeft ho p) (g.callsLeft (h.endLeft ho) p)
  endLeft := fun ho => g.endLeft (h.endLeft ho)

/-- A step without a call, before the work. -/
theorem Runs.after_next (hs : step s = .next t) (hh : t.hangAt = s.hangAt) (he : t.env = s.env)
    (h : Runs n t calls u) : Runs (n + 1) s calls u where
  run := by rw [runSteps_succ_of_next hs, h.run, deliver_congr hh (by rw [he])]
  hangAt := h.hangAt.trans hh
  hasEnv := by rw [h.hasEnv, he]
  callsLeft := fun ho => h.callsLeft (by rwa [State.envOutside, he])
  endLeft := fun ho => h.endLeft (by rwa [State.envOutside, he])

/-- A step without a call, after the work. -/
theorem Runs.then_next (h : Runs n s calls t) (ht : step t = .next u) (hh : u.hangAt = t.hangAt) (he : u.env = t.env) :
    Runs (n + 1) s calls u where
  run := by
    have ho : u.envOutside = t.envOutside := by simp only [State.envOutside, he]
    have hu : s.env = none ∨ t.envOutside = false → runSteps 1 t = deliver s [] u := fun hin => by
      rw [runSteps_one, ht, deliver, hungCall_nil]
      exact (hin.elim (unlessRefused_of_none · _) (fun hi => unlessRefused_of_inside (ho.trans hi) _)).symm
    rw [runSteps_add, h.run, runOn_deliver hu fun e he ht => deliver_of_outside hungCall_nil he (ho.trans ht),
      List.append_nil]
  hangAt := hh.trans h.hangAt
  hasEnv := by rw [he, h.hasEnv]
  callsLeft := h.callsLeft
  endLeft := fun ho => by rw [State.envOutside, he]; exact h.endLeft ho

/-! ### Frames on the wire -/

/-- A bus frame makes one call (R57, R74). -/
theorem instrCalls_of_frame {i : Instr} (hi : i.format ≠ .host) (s : State) :
    ∃ p, instrCalls i s = [p] ∧ p.envOutside = s.envOutside := by
  cases i with
  | crcReset | crcAcc | crcCheck | select | readPage | readPageC | writeScratchpad | copyScratchpad | writePage =>
    exact absurd rfl hi
  | wMatch _ | wRead _ | wReadc | wWsp _ _ | wCopy _ | wAuth => exact ⟨_, rfl, rfl⟩

theorem not_mem_crcOps_of_frame {i : Instr} (hi : i.format ≠ .host) : i ∉ crcOps := by
  intro h
  simp only [crcOps, List.mem_cons, List.not_mem_nil, or_false] at h
  rcases h with rfl | rfl | rfl <;> exact hi rfl

/-- A bus frame keeps the number of the call that hangs, and leaves an environment where there was one. -/
theorem instrEnd_of_frame {i : Instr} (hi : i.format ≠ .host) (s : State) :
    (instrEnd i s).hangAt = s.hangAt ∧ (instrEnd i s).mem? = s.mem? := by
  cases i with
  | crcReset | crcAcc | crcCheck | select | readPage | readPageC | writeScratchpad | copyScratchpad | writePage =>
    exact absurd rfl hi
  | wMatch _ | wRead _ | wReadc | wWsp _ _ | wCopy _ | wAuth => simp [instrEnd]

/-- What begins at a control position is a bus frame (R85). -/
theorem format_of_frameAt {i : Instr} (h : frameAt s = some i) : i.format ≠ .host := by
  unfold frameAt at h
  split at h <;> cases h
  · nofun
  · split <;> nofun
  · nofun
  · nofun
  · nofun

@[simp] theorem leaveSelector_hangAt (s : State) : (leaveSelector s).hangAt = s.hangAt := by
  unfold leaveSelector
  split
  · rfl
  · rfl
  · rfl
  · split <;> rfl
  · rfl

@[simp] theorem leaveSelector_env (s : State) : (leaveSelector s).env = s.env := by
  unfold leaveSelector
  split
  · rfl
  · rfl
  · rfl
  · split <;> rfl
  · rfl

@[simp] theorem leaveFrame_hangAt (s : State) : (leaveFrame s).hangAt = s.hangAt := by
  unfold leaveFrame
  split <;> simp

@[simp] theorem leaveFrame_env (s : State) : (leaveFrame s).env = s.env := by
  unfold leaveFrame
  split <;> simp

@[simp] theorem leaveFrame_envOutside (s : State) : (leaveFrame s).envOutside = s.envOutside := by
  simp [State.envOutside]

@[simp] theorem failSelection_hangAt (s : State) : (failSelection s).hangAt = s.hangAt := by
  unfold failSelection
  split <;> rfl

@[simp] theorem failSelection_env (s : State) : (failSelection s).env = s.env := by
  unfold failSelection
  split <;> rfl

@[simp] theorem failSelection_envOutside (s : State) : (failSelection s).envOutside = s.envOutside := by
  simp [State.envOutside]

@[simp] theorem probe_envOutside (s : State) : (probe s).2.envOutside = s.envOutside := by simp [probe]

/-- A frame's outcome, with what follows it. -/
theorem andLeaveFrame_deliver (s t : State) (calls : List State) :
    andLeaveFrame (deliver s calls t) = deliver s calls (leaveFrame t) := by
  unfold deliver unlessRefused
  rw [leaveFrame_envOutside]
  split <;> split <;> rfl

theorem isSome_env_of_mem? (h : t.mem? = s.mem?) : t.env.isSome = s.env.isSome := by
  simpa [State.mem?] using congrArg Option.isSome h

/-- The step at the position of a bus frame is the delivery of that frame, and what follows it (R24). -/
theorem Runs.of_frame {i : Instr} (hb : s.busy = true) (hf : frameAt s = some i) (hl : leaveFrame (instrEnd i s) = t) :
    Runs 1 s (instrCalls i s) t := by
  have hi := format_of_frameAt hf
  obtain ⟨p, hp, hpo⟩ := instrCalls_of_frame hi s
  obtain ⟨hh, hm⟩ := instrEnd_of_frame hi s
  have hs : step s = deliver s (instrCalls i s) t := by
    rw [step_of_busy hb, busyStep_of_frame hf, exec_eq_deliver (not_mem_crcOps_of_frame hi), andLeaveFrame_deliver, hl]
  subst hl
  rw [hp] at hs ⊢
  refine .of_step hs (by rw [leaveFrame_hangAt, hh]) (by rw [leaveFrame_env, isSome_env_of_mem? hm]) hpo fun ho => ?_
  rw [← hpo]
  exact instrCalls_inside (by simpa using ho) p (by rw [hp]; exact List.mem_singleton_self p)

/-! ### The control positions, one run each (R24) -/

/-- The match frame, and the return from the Device Selector (R105). -/
theorem runs_match (hb : s.busy = true) :
    Runs 1 (setSeq .selMatch s) [matchCall s.id s] (leaveSelector (frameMatch s.id s)) := by
  have hl : leaveFrame (frameMatch s.id s) = leaveSelector (frameMatch s.id s) := by simp [leaveFrame]
  exact .of_frame (s := setSeq .selMatch s) hb rfl hl

/-- The read frame (R110). -/
theorem runs_read (hb : s.busy = true) (hc : s.argCont = false) :
    Runs 1 (enterRead s) [readCall (pageAddr s.argPidx) (enterRead s)]
      (setSeq .rdCheck (frameRead (pageAddr s.argPidx) (enterRead s))) :=
  .of_frame (s := enterRead s) (i := .wRead (pageAddr s.argPidx)) hb (by simp [frameAt, hc])
    (by simp [leaveFrame, instrEnd])

/-- The frame of a continued read (R111). -/
theorem runs_readc (hb : s.busy = true) (hc : s.argCont = true) :
    Runs 1 (enterRead s) [readcCall (enterRead s)] (setSeq .rdCheck (frameReadc (enterRead s))) :=
  .of_frame (s := enterRead s) (i := .wReadc) hb (by simp [frameAt, hc]) (by simp [leaveFrame, instrEnd])

/-- The write-scratchpad frame (R120). -/
theorem runs_scratch (hb : s.busy = true) :
    Runs 1 (enterScratch s) [wspCall (writeAddr s) s.wdata (enterScratch s)]
      (setSeq .wsCheck (frameWsp (writeAddr s) s.wdata (enterScratch s))) :=
  .of_frame (s := enterScratch s) (i := .wWsp (writeAddr s) s.wdata) hb rfl (by simp [leaveFrame, instrEnd])

/-- The copy frame (R122). -/
theorem runs_copy (hb : s.busy = true) :
    Runs 1 (setSeq .cpCmd s) [copyCall (writeAddr s) s] (setSeq .cpPwrOn (frameCopy (writeAddr s) s)) := by
  have hl : leaveFrame (frameCopy (writeAddr s) s) = setSeq .cpPwrOn (frameCopy (writeAddr s) s) := by simp [leaveFrame]
  exact .of_frame (s := setSeq .cpCmd s) hb rfl hl

/-- The authorization byte (R123). -/
theorem runs_auth (hb : s.busy = true) :
    Runs 1 (setSeq .cpAuth s) [authCall s] (setSeq .cpWait (frameAuth s)) := by
  have hl : leaveFrame (frameAuth s) = setSeq .cpWait (frameAuth s) := by simp [leaveFrame]
  exact .of_frame (s := setSeq .cpAuth s) hb rfl hl

theorem step_of_position (hb : s.busy = true) (hf : frameAt s = none) : step s = sequencerStep s := by
  rw [step_of_busy hb, busyStep_of_no_frame hf]

/-- The bus reset (R105, R109). -/
theorem runs_probe (hb : s.busy = true) :
    Runs 1 (setSeq .selReset s) [setSeq .selReset s]
      (if (probe s).1 then setSeq .selMatch (probe s).2 else failSelection (probe s).2) := by
  refine .of_step (step_of_position hb rfl) ?_ ?_ rfl ?_
  · split <;> simp
  · split
    · exact isSome_env_of_mem? (by simp)
    · rw [failSelection_env]
      exact isSome_env_of_mem? (by simp)
  · split <;> simp

theorem runs_powerOn (hb : s.busy = true) :
    Runs 1 (setSeq .cpPwrOn s) [setSeq .cpPwrOn s] (setSeq .cpAuth (powerOn s)) :=
  .of_step (step_of_position hb rfl) rfl rfl rfl id

theorem runs_waitSettle (hb : s.busy = true) :
    Runs 1 (setSeq .cpWait s) [setSeq .cpWait s] (setSeq .cpPwrOff (waitSettle s)) :=
  .of_step (step_of_position hb rfl) rfl (by simp [waitSettle]) rfl (by simp [waitSettle])

theorem runs_powerOff (hb : s.busy = true) :
    Runs 1 (setSeq .cpPwrOff s) [setSeq .cpPwrOff s] (setSeq .cpConf (powerOff s)) :=
  .of_step (step_of_position hb rfl) rfl rfl rfl id

theorem runs_confirm (hb : s.busy = true) :
    Runs 1 (setSeq .cpConf s) [setSeq .cpConf s] (setSeq .cpCheck (confirm s)) :=
  .of_step (step_of_position hb rfl) (by simp [confirm]) (by simp [confirm]) rfl (by simp [confirm])

/-! ### Selections and phases -/

/-- A selection that finds no device (R109). -/
theorem runs_select_absent (hb : s.busy = true) (hp : (select s).1 = false) :
    Runs 1 (setSeq .selReset s) (selectCalls s) (failSelection (select s).2) := by
  have hp : (probe s).1 = false := hp
  simpa [selectCalls, hp, select_of_absent s hp] using runs_probe hb

/-- A selection that finds a device, and the return to the operation (R105). -/
theorem runs_select_present (hb : s.busy = true) (hp : (select s).1 = true) :
    Runs 2 (setSeq .selReset s) (selectCalls s) (leaveSelector (select s).2) := by
  have hp : (probe s).1 = true := hp
  have h := runs_probe hb
  rw [hp, if_pos rfl] at h
  simpa [selectCalls, hp, select_of_present s hp] using h.trans (runs_match (s := (probe s).2) (by simp [hb]))

theorem runningOp_select (s : State) : runningOp (select s).2 = runningOp s := runningOp_congr (by simp) (by simp)

theorem writeAddr_select (s : State) : writeAddr (select s).2 = writeAddr s := by
  simp only [writeAddr, runningOp_select, select_argPidx, select_argAddr]

@[simp] theorem checkScratch_hangAt (s : State) : (checkScratch s).hangAt = s.hangAt := by
  unfold checkScratch
  split
  · split <;> rfl
  · simp

@[simp] theorem checkScratch_env (s : State) : (checkScratch s).env = s.env := by
  unfold checkScratch
  split
  · split <;> rfl
  · simp

@[simp] theorem checkCopy_hangAt (s : State) : (checkCopy s).hangAt = s.hangAt := by
  unfold checkCopy
  split <;> simp

@[simp] theorem checkCopy_env (s : State) : (checkCopy s).env = s.env := by
  unfold checkCopy
  split <;> simp

/-- Phase 1 with its check (R120). -/
theorem runs_phase1 (hb : s.busy = true) (hp : (select s).1 = true)
    (hl : leaveSelector (select s).2 = enterScratch (select s).2) :
    Runs 4 (setSeq .selReset s) (phase1Calls (writeAddr s) s.wdata s)
      (checkScratch (phase1 (writeAddr s) s.wdata s).2) := by
  have h := (hl ▸ runs_select_present hb hp).trans (runs_scratch (s := (select s).2) (by simp [hb]))
  have h := h.then_next (step_of_position (by simp [hb]) rfl) (checkScratch_hangAt _) (checkScratch_env _)
  simpa [phase1Calls, phase1, hp, writeAddr_select] using h

/-- The copy phase after its selection, up to its check (R122, R123). -/
theorem runs_copyCalls (hb : s.busy = true) :
    Runs 6 (setSeq .cpCmd s) (copyCalls (writeAddr s) s)
      (setSeq .cpCheck (confirm (powerOff (waitSettle (frameAuth (powerOn (frameCopy (writeAddr s) s))))))) :=
  (runs_copy hb)
    |>.trans (runs_powerOn (by simp [hb]))
    |>.trans (runs_auth (by simp [powerOn, hb]))
    |>.trans (runs_waitSettle (by simp [powerOn, hb]))
    |>.trans (runs_powerOff (by simp [powerOn, waitSettle, hb]))
    |>.trans (runs_confirm (by simp [powerOn, waitSettle, powerOff, hb]))

/-- Phase 2 with its check (R122). -/
theorem runs_phase2 (hb : s.busy = true) (hp : (select s).1 = true)
    (hl : leaveSelector (select s).2 = setSeq .cpCmd (select s).2) :
    Runs 9 (setSeq .selReset s) (phase2Calls (writeAddr s) s) (checkCopy (phase2 (writeAddr s) s).2) := by
  have h := (hl ▸ runs_select_present hb hp).trans (runs_copyCalls (s := (select s).2) (by simp [hb]))
  have h := h.then_next (step_of_position (by simp [hb, confirm, powerOff, waitSettle, powerOn]) rfl)
    (checkCopy_hangAt _) (checkCopy_env _)
  simpa [phase2Calls, phase2, hp, writeAddr_select] using h

/-! ### The operations -/

theorem latchedCommand_bit4 (s : State) : (latchedCommand s).getLsbD 4 = s.argCont := by
  rw [latchedCommand, BitVec.getLsbD_append, BitVec.getLsbD_append]
  simp

/-- `CONT` is latched by `READ_PAGE.C` and by no other operation (R71, R72). -/
theorem argCont_iff_of_runningOp {i : Instr} (h : runningOp s = some i) : s.argCont = true ↔ i = .readPageC := by
  unfold runningOp decodeHost at h
  rw [latchedCommand_bit4] at h
  split at h
  · cases h
  · cases hc : s.argCont with
    | true =>
      rw [hc, if_pos rfl] at h
      split at h <;> cases h
      simp
    | false =>
      rw [hc, if_neg Bool.false_ne_true] at h
      split at h <;> cases h <;> simp

theorem failSelection_of_ne (hr : runningOp s ≠ some .writePage) : failSelection s = fail .deviceAbsent s := by
  rw [failSelection, if_neg hr]

/-- The check of Phase 1 in `WRITE_PAGE`: on to Phase 2, or the end in `Aborted` (R124, R125). -/
theorem checkScratch_of_writePage (hr : runningOp s = some .writePage) :
    checkScratch s = if scratchCode s = .ok then setSeq .selReset (setWState .scratchpadStaged s)
      else fail (scratchCode s) (setWState .aborted s) := by
  cases hv : s.valid <;> simp [checkScratch, scratchCode, hr, hv]

theorem step_of_accepted (hb : s.busy = true) (hq : s.seq = .idle) : step s = beginOp s := by
  rw [step_of_position hb (by rw [frameAt, hq]), sequencerStep, hq]

theorem step_rdCheck (hb : s.busy = true) :
    step (setSeq .rdCheck s) = .next (finishRead (readOffset s) s) := step_of_position hb rfl

/-- From acceptance on, the sequencer's steps, at least one and at most 14, end in the outcome `o`. -/
def State.EndsIn (s : State) (o : Host.Outcome State Fault Refusal) : Prop :=
  ∃ n, 1 ≤ n ∧ n ≤ 14 ∧ runSteps n s = o

theorem endsIn_of_step {o : Host.Outcome State Fault Refusal} (h : step s = o) : s.EndsIn o :=
  ⟨1, le_rfl, by omega, (runSteps_one s).trans h⟩

theorem Runs.endsIn (h : Runs n s calls t) (hn : 1 ≤ n := by omega) (hn' : n ≤ 14 := by omega) :
    s.EndsIn (deliver s calls t) := ⟨n, hn, hn', h.run⟩

theorem endsIn_select (hb : s.busy = true) (hq : s.seq = .idle) (hr : runningOp s = some .select) :
    s.EndsIn (execSelect s) := by
  have hs : step s = .next (setSeq .selReset s) := by rw [step_of_accepted hb hq, beginOp, hr]
  cases hp : (select s).1 with
  | false =>
    have hf := failSelection_of_ne (s := (select s).2) (by simp [runningOp_select, hr])
    simpa [execSelect, hp, hf] using ((runs_select_absent hb hp).after_next hs rfl rfl).endsIn
  | true =>
    have hl : leaveSelector (select s).2 = done .success (select s).2 := by simp [leaveSelector, runningOp_select, hr]
    simpa [execSelect, hp, hl] using ((runs_select_present hb hp).after_next hs rfl rfl).endsIn

theorem endsIn_readPage (hb : s.busy = true) (hq : s.seq = .idle) (hr : runningOp s = some .readPage) :
    s.EndsIn (execReadPage s) := by
  have hs : step s = .next (setSeq .selReset (clearRvalid s)) := by rw [step_of_accepted hb hq, beginOp, hr]
  have hr' : runningOp (select (clearRvalid s)).2 = some .readPage := (runningOp_select (clearRvalid s)).trans hr
  have hb' : (clearRvalid s).busy = true := hb
  cases hp : (select (clearRvalid s)).1 with
  | false =>
    have hf := failSelection_of_ne (s := (select (clearRvalid s)).2) (by simp [hr'])
    simpa [execReadPage, readPageCalls, hp, hf] using ((runs_select_absent hb' hp).after_next hs rfl rfl).endsIn
  | true =>
    have hl : leaveSelector (select (clearRvalid s)).2 = enterRead (select (clearRvalid s)).2 := by
      simp [leaveSelector, hr']
    have hc : (select (clearRvalid s)).2.argCont = false := by
      simpa using (argCont_iff_of_runningOp hr').not.mpr nofun
    have h := (hl ▸ runs_select_present hb' hp).trans (runs_read (by simp [hb]) hc)
    have h := (h.then_next (step_rdCheck (by simp [hb])) (by simp) (by simp)).after_next hs rfl rfl
    rw [show readOffset (frameRead _ _) = 3 by simpa [readOffset] using hc] at h
    simpa [execReadPage, readPageCalls, hp] using h.endsIn

theorem endsIn_readPageC (hb : s.busy = true) (hq : s.seq = .idle) (hr : runningOp s = some .readPageC) :
    s.EndsIn (execReadPageC s) := by
  have hs : step s = .next (enterRead (clearRvalid s)) := by rw [step_of_accepted hb hq, beginOp, hr]
  have hc : (clearRvalid s).argCont = true := (argCont_iff_of_runningOp hr).mpr rfl
  have h := runs_readc (s := clearRvalid s) hb hc
  have h := (h.then_next (step_rdCheck (by simp [hb])) (by simp) (by simp)).after_next hs rfl rfl
  rw [show readOffset (frameReadc _) = 0 by simpa [readOffset] using hc] at h
  exact h.endsIn

theorem phase1_fst (a : Word) (d : Bytes 32) (hp : (select s).1 = true) :
    (phase1 a d s).1 = scratchCode (phase1 a d s).2 := by
  simp only [phase1, hp, if_true]

theorem phase2_fst (a : Word) (hp : (select s).1 = true) : (phase2 a s).1 = copyCode (phase2 a s).2 := by
  simp only [phase2, hp, if_true]

theorem runningOp_phase1 (a : Word) (d : Bytes 32) (s : State) : runningOp (phase1 a d s).2 = runningOp s :=
  runningOp_congr (by simp) (by simp)

theorem runningOp_phase2 (a : Word) (s : State) : runningOp (phase2 a s).2 = runningOp s :=
  runningOp_congr (by simp) (by simp)

theorem endsIn_writeScratchpad (hb : s.busy = true) (hq : s.seq = .idle) (hr : runningOp s = some .writeScratchpad) :
    s.EndsIn (execWriteScratchpad s) := by
  have hs : step s = .next (setSeq .selReset s) := by rw [step_of_accepted hb hq, beginOp, hr]
  have hw : writeAddr s = s.argAddr := by simp [writeAddr, hr]
  cases hp : (select s).1 with
  | false =>
    have hf := failSelection_of_ne (s := (select s).2) (by simp [runningOp_select, hr])
    simpa [execWriteScratchpad, phase1Calls, phase1, finishPhase, hp, hf]
      using ((runs_select_absent hb hp).after_next hs rfl rfl).endsIn
  | true =>
    have hl : leaveSelector (select s).2 = enterScratch (select s).2 := by simp [leaveSelector, runningOp_select, hr]
    have hc : checkScratch (phase1 s.argAddr s.wdata s).2 = finishPhase (phase1 s.argAddr s.wdata s) := by
      simp [checkScratch, runningOp_phase1, hr, ← phase1_fst _ _ hp]
    simpa [execWriteScratchpad, hw, hc] using ((runs_phase1 hb hp hl).after_next hs rfl rfl).endsIn

theorem endsIn_copyScratchpad (hb : s.busy = true) (hq : s.seq = .idle) (hr : runningOp s = some .copyScratchpad) :
    s.EndsIn (execCopyScratchpad s) := by
  have hs : step s = .next (setSeq .selReset s) := by rw [step_of_accepted hb hq, beginOp, hr]
  have hw : writeAddr s = s.argAddr := by simp [writeAddr, hr]
  cases hp : (select s).1 with
  | false =>
    have hf := failSelection_of_ne (s := (select s).2) (by simp [runningOp_select, hr])
    simpa [execCopyScratchpad, phase2Calls, phase2, finishPhase, hp, hf]
      using ((runs_select_absent hb hp).after_next hs rfl rfl).endsIn
  | true =>
    have hl : leaveSelector (select s).2 = setSeq .cpCmd (select s).2 := by simp [leaveSelector, runningOp_select, hr]
    have hc : checkCopy (phase2 s.argAddr s).2 = finishPhase (phase2 s.argAddr s) := by
      simp [checkCopy, runningOp_phase2, hr, ← phase2_fst _ hp]
    simpa [execCopyScratchpad, hw, hc] using ((runs_phase2 hb hp hl).after_next hs rfl rfl).endsIn

/-- Phase 2 of `WRITE_PAGE`, from the check of Phase 1 to the end of the operation (R124). -/
theorem runs_commitStaged (hb : s.busy = true) (hr : runningOp s = some .writePage) :
    ∃ n ≤ 9, Runs n (setSeq .selReset (setWState .scratchpadStaged s))
      (phase2Calls (pageAddr s.argPidx) (setWState .scratchpadStaged s)) (commitStaged (pageAddr s.argPidx) s) := by
  have hb' : (setWState .scratchpadStaged s).busy = true := hb
  have hr' : runningOp (setWState .scratchpadStaged s) = some .writePage := hr
  have hw : writeAddr (setWState .scratchpadStaged s) = pageAddr s.argPidx := by simp [writeAddr, hr']
  cases hp : (select (setWState .scratchpadStaged s)).1 with
  | false =>
    refine ⟨1, by omega, ?_⟩
    have hf : commitStaged (pageAddr s.argPidx) s = failSelection (select (setWState .scratchpadStaged s)).2 := by
      simp [commitStaged, phase2, hp, finishPhase, failSelection, runningOp_select, hr']
    simpa [phase2Calls, hp, hf] using runs_select_absent hb' hp
  | true =>
    refine ⟨9, le_rfl, ?_⟩
    have hl : leaveSelector (select (setWState .scratchpadStaged s)).2 =
        setSeq .cpCmd (select (setWState .scratchpadStaged s)).2 := by
      simp [leaveSelector, runningOp_select, hr']
    have hc : commitStaged (pageAddr s.argPidx) s =
        checkCopy (phase2 (pageAddr s.argPidx) (setWState .scratchpadStaged s)).2 := by
      simp [commitStaged, checkCopy, runningOp_phase2, hr', phase2_fst _ hp]
    rw [hc, ← hw]
    exact runs_phase2 hb' hp hl

theorem endsIn_writePage (hb : s.busy = true) (hq : s.seq = .idle) (hr : runningOp s = some .writePage) :
    s.EndsIn (execWritePage s) := by
  have hs : step s = .next (setSeq .selReset (setWState .idle s)) := by rw [step_of_accepted hb hq, beginOp, hr]
  have hb' : (setWState .idle s).busy = true := hb
  have hr' : runningOp (setWState .idle s) = some .writePage := hr
  have hw : writeAddr (setWState .idle s) = pageAddr s.argPidx := by simp [writeAddr, hr']
  cases hp : (select (setWState .idle s)).1 with
  | false =>
    have hf : failSelection (select (setWState .idle s)).2 =
        fail .deviceAbsent (setWState .aborted (select (setWState .idle s)).2) := by
      simp [failSelection, runningOp_select, hr']
    simpa [execWritePage, writePageCalls, writePage, phase1Calls, phase1, hp, hf]
      using ((runs_select_absent hb' hp).after_next hs rfl rfl).endsIn
  | true =>
    have hl : leaveSelector (select (setWState .idle s)).2 = enterScratch (select (setWState .idle s)).2 := by
      simp [leaveSelector, runningOp_select, hr']
    have h := hw ▸ runs_phase1 hb' hp hl
    have hrt := (runningOp_phase1 (pageAddr s.argPidx) s.wdata (setWState .idle s)).trans hr'
    have hc := checkScratch_of_writePage hrt
    rw [← phase1_fst _ _ hp] at hc
    by_cases hk : (phase1 (pageAddr s.argPidx) s.wdata (setWState .idle s)).1 = .ok
    · rw [if_pos hk] at hc
      obtain ⟨n, hn, h2⟩ := runs_commitStaged (by simp [hb]) hrt
      have h := ((hc ▸ h).trans h2).after_next hs rfl rfl
      simpa [execWritePage, writePageCalls, writePage, hk] using h.endsIn
    · rw [if_neg hk] at hc
      simpa [execWritePage, writePageCalls, writePage, hk, hc] using (h.after_next hs rfl rfl).endsIn

/-- Settles O45: the run of each operation is composed of the runs of its control positions. -/
theorem sequencerStepsMatchTheOperation : Obligations.SequencerStepsMatchTheOperation := by
  unfold Obligations.SequencerStepsMatchTheOperation
  intro s i hb hq hr
  have hi := runningOp_mem_hostOps hr
  simp only [hostOps, List.mem_cons, List.not_mem_nil, or_false] at hi
  have hs : step s = beginOp s := step_of_accepted hb hq
  rcases hi with rfl | rfl | rfl | rfl | rfl | rfl | rfl | rfl | rfl
  · exact endsIn_of_step (by rw [hs, beginOp, hr]; rfl)
  · exact endsIn_of_step (by rw [hs, beginOp, hr]; rfl)
  · exact endsIn_of_step (by rw [hs, beginOp, hr]; rfl)
  · exact endsIn_select hb hq hr
  · exact endsIn_readPage hb hq hr
  · exact endsIn_readPageC hb hq hr
  · exact endsIn_writeScratchpad hb hq hr
  · exact endsIn_copyScratchpad hb hq hr
  · exact endsIn_writePage hb hq hr

end Sys2Proof.Machine
end

section
/-! PROOFS. What an instruction leaves at its end (R22, R26, R34). `execEnd` is the state after any instruction that answers
a next state; every frame property of the instructions is read off it, register by register. -/

namespace Sys2Proof.Machine

variable {i : Instr} {s t : State}

/-! ### The end of every instruction -/

/-- The state after an instruction that completes: `instrEnd`, with the CRC operations as well (R94 to R96). -/
def execEnd : Instr → State → State
  | .crcReset, s => endCrc .nothing (clearAcc s)
  | .crcAcc, s => endCrc (.acc (foldBytes [s.argByte] s).acc) (foldBytes [s.argByte] s)
  | .crcCheck, s => endCrc (.valid s.valid) s
  | i, s => instrEnd i s

theorem exec_of_mem_crcOps (h : i ∈ crcOps) (s : State) : exec i s = .next (execEnd i s) := by
  simp only [crcOps, List.mem_cons, List.not_mem_nil, or_false] at h
  rcases h with rfl | rfl | rfl <;> rfl

theorem execEnd_of_not_mem_crcOps (h : i ∉ crcOps) (s : State) : execEnd i s = instrEnd i s := by
  cases i with
  | crcReset | crcAcc | crcCheck => simp [crcOps] at h
  | select | readPage | readPageC | writeScratchpad | copyScratchpad | writePage | wMatch _ | wRead _ | wReadc
  | wWsp _ _ | wCopy _ | wAuth => rfl

theorem eq_execEnd_of_next (h : exec i s = .next t) : t = execEnd i s := by
  by_cases hc : i ∈ crcOps
  · exact Host.Outcome.next.inj (h.symm.trans (exec_of_mem_crcOps hc s))
  · rw [exec_eq_deliver hc] at h
    rw [execEnd_of_not_mem_crcOps hc, (deliver_next h).1]

/-! ### What the two ends with a branch of their own leave unchanged -/

@[simp] theorem selectEnd_acc (s : State) : (selectEnd s).acc = s.acc := by simp only [selectEnd]; split <;> simp
@[simp] theorem selectEnd_rdata (s : State) : (selectEnd s).rdata = s.rdata := by simp only [selectEnd]; split <;> simp
@[simp] theorem selectEnd_conf (s : State) : (selectEnd s).conf = s.conf := by simp only [selectEnd]; split <;> simp
@[simp] theorem selectEnd_wstate (s : State) : (selectEnd s).wstate = s.wstate := by
  simp only [selectEnd]; split <;> simp
@[simp] theorem selectEnd_busPower (s : State) : (selectEnd s).busPower = s.busPower := by
  simp only [selectEnd]; split <;> simp
@[simp] theorem readPageEnd_conf (s : State) : (readPageEnd s).conf = s.conf := by
  simp only [readPageEnd]; split <;> simp
@[simp] theorem readPageEnd_wstate (s : State) : (readPageEnd s).wstate = s.wstate := by
  simp only [readPageEnd]; split <;> simp
@[simp] theorem readPageEnd_busPower (s : State) : (readPageEnd s).busPower = s.busPower := by
  simp only [readPageEnd]; split <;> simp

theorem selectEnd_rvalid (s : State) : (selectEnd s).rvalid = s.rvalid ∨ (selectEnd s).rvalid = false := by
  simp only [selectEnd]
  split
  · exact .inl (by simp)
  · exact .inr (by simp)

theorem finishPhase_rvalid_or (r : Status × State) :
    (finishPhase r).rvalid = r.2.rvalid ∨ (finishPhase r).rvalid = false := by
  rw [finishPhase_rvalid]
  split
  · exact .inl rfl
  · exact .inr rfl

/-! ### `ID` and the operand latches (R22, R26, R108) -/

theorem selectEnd_sameInputs (s : State) : s.sameInputs (selectEnd s) := by
  simp only [selectEnd]; split <;> simp [State.sameInputs]

theorem readPageEnd_sameInputs (s : State) : s.sameInputs (readPageEnd s) := by
  simp only [readPageEnd]; split <;> simp [State.sameInputs]

theorem execEnd_sameInputs (i : Instr) (s : State) : s.sameInputs (execEnd i s) := by
  cases i with
  | select => exact selectEnd_sameInputs s
  | readPage => exact readPageEnd_sameInputs s
  | crcReset | crcAcc | crcCheck | readPageC | writeScratchpad | copyScratchpad | writePage | wMatch _ | wRead _ | wReadc
  | wWsp _ _ | wCopy _ | wAuth => simp [State.sameInputs, execEnd, instrEnd]

/-- Settles O32: the end of each instruction has the identifier and the latches that it began with. -/
theorem identifierAndLatchesAreNeverWritten : Obligations.IdentifierAndLatchesAreNeverWritten := by
  unfold Obligations.IdentifierAndLatchesAreNeverWritten
  intro i s t h
  rw [eq_execEnd_of_next h]
  exact execEnd_sameInputs i s

/-! ### The empty cells of the table (R34) -/

/-- `CRC.CHECK`, `SELECT` and `COPY_SCRATCHPAD` do not write `ACC`. -/
theorem execEnd_acc (hi : i ∈ [.crcCheck, .select, .copyScratchpad]) (s : State) : (execEnd i s).acc = s.acc := by
  simp only [List.mem_cons, List.not_mem_nil, or_false] at hi
  rcases hi with rfl | rfl | rfl
  · rfl
  · exact selectEnd_acc s
  · simp [execEnd, instrEnd]

/-- The CRC operations write nothing of the bus, no `STATUS` and no `RVALID`. -/
theorem execEnd_of_crcOps (hi : i ∈ crcOps) (s : State) :
    (execEnd i s).tb = s.tb ∧ (execEnd i s).tbLen = s.tbLen ∧ (execEnd i s).status = s.status ∧
      (execEnd i s).rvalid = s.rvalid ∧ (execEnd i s).trace = s.trace := by
  simp only [crcOps, List.mem_cons, List.not_mem_nil, or_false] at hi
  rcases hi with rfl | rfl | rfl <;> exact ⟨rfl, rfl, rfl, rfl, rfl⟩

/-- Only the operations that select write `PRESENT`. -/
theorem execEnd_present (hi : i ∈ [.crcReset, .crcAcc, .crcCheck, .readPageC]) (s : State) :
    (execEnd i s).present = s.present := by
  simp only [List.mem_cons, List.not_mem_nil, or_false] at hi
  rcases hi with rfl | rfl | rfl | rfl
  · rfl
  · rfl
  · rfl
  · simp [execEnd, instrEnd]

/-- Only the reads write `RDATA`. -/
theorem execEnd_rdata (hi : i ∉ [.readPage, .readPageC]) (s : State) : (execEnd i s).rdata = s.rdata := by
  cases i with
  | readPage | readPageC => simp at hi
  | crcReset | crcAcc | crcCheck | select | writeScratchpad | copyScratchpad | writePage | wMatch _ | wRead _ | wReadc
  | wWsp _ _ | wCopy _ | wAuth => simp [execEnd, instrEnd]

theorem commitStaged_rvalid (a : Word) (s : State) :
    (commitStaged a s).rvalid = s.rvalid ∨ (commitStaged a s).rvalid = false := by
  unfold commitStaged
  refine (finishPhase_rvalid_or _).imp_left fun h => h.trans ?_
  simp

theorem writePage_rvalid (s : State) : (writePage s).rvalid = s.rvalid ∨ (writePage s).rvalid = false := by
  simp only [writePage]
  split
  · simpa using commitStaged_rvalid (pageAddr s.argPidx) (phase1 (pageAddr s.argPidx) s.wdata (setWState .idle s)).2
  · exact .inr rfl

/-- Only the reads set `RVALID`. -/
theorem execEnd_rvalid (hi : i ∉ [.readPage, .readPageC]) (s : State) :
    (execEnd i s).rvalid = s.rvalid ∨ (execEnd i s).rvalid = false := by
  cases i with
  | readPage | readPageC => simp at hi
  | select => exact selectEnd_rvalid s
  | writeScratchpad => simpa [execEnd, instrEnd] using finishPhase_rvalid_or (phase1 s.argAddr s.wdata s)
  | copyScratchpad => simpa [execEnd, instrEnd] using finishPhase_rvalid_or (phase2 s.argAddr s)
  | writePage => exact writePage_rvalid s
  | crcReset | crcAcc | crcCheck | wMatch _ | wRead _ | wReadc | wWsp _ _ | wCopy _ | wAuth =>
    exact .inl (by simp [execEnd, instrEnd])

/-- Only the copies write `CONF`, and only they change the bus power level. -/
theorem execEnd_conf_busPower (hi : i ∉ [.copyScratchpad, .writePage]) (s : State) :
    (execEnd i s).conf = s.conf ∧ (execEnd i s).busPower = s.busPower := by
  cases i with
  | copyScratchpad | writePage => simp at hi
  | crcReset | crcAcc | crcCheck | select | readPage | readPageC | writeScratchpad | wMatch _ | wRead _ | wReadc
  | wWsp _ _ | wCopy _ | wAuth => simp [execEnd, instrEnd]

/-- Only `WRITE_PAGE` writes `WSTATE`. -/
theorem execEnd_wstate (hi : i ≠ .writePage) (s : State) : (execEnd i s).wstate = s.wstate := by
  cases i with
  | writePage => exact absurd rfl hi
  | crcReset | crcAcc | crcCheck | select | readPage | readPageC | writeScratchpad | copyScratchpad | wMatch _ | wRead _
  | wReadc | wWsp _ _ | wCopy _ | wAuth => simp [execEnd, instrEnd]

/-- `WRITE_PAGE` ends in one of its three final states (R125). -/
theorem writePage_wstate (s : State) :
    (writePage s).wstate = .committed ∨ (writePage s).wstate = .aborted ∨ (writePage s).wstate = .unknown := by
  simp only [writePage]
  split
  · simp only [commitStaged, finishPhase_wstate, setWState_wstate]
    split
    · exact .inl rfl
    · exact .inr (.inr rfl)
  · exact .inr (.inl rfl)

/-- Settles O36: one column of R34 after the other. -/
theorem operationsWriteOnlyTheirRegisters : Obligations.OperationsWriteOnlyTheirRegisters := by
  unfold Obligations.OperationsWriteOnlyTheirRegisters
  intro i s t _ h
  rw [eq_execEnd_of_next h]
  refine ⟨(execEnd_acc · s), (execEnd_of_crcOps · s), (execEnd_present · s),
    fun hi => ⟨execEnd_rdata hi s, execEnd_rvalid hi s⟩, (execEnd_conf_busPower · s), (execEnd_wstate · s), ?_⟩
  rintro rfl
  exact writePage_wstate s

end Sys2Proof.Machine
end

section
/-! PROOFS. No bus operation depends on the `ACC` that earlier operations left (R30, R160). The parts of an operation before
its `ACC <- 0` commute with `clearAcc`, and from `ACC <- 0` on the states are the same. -/

namespace Sys2Proof.Machine

variable (s : State)

/-! ### What does not look at `ACC` -/

@[simp] theorem clearAcc_clearAcc : clearAcc (clearAcc s) = clearAcc s := rfl

theorem busReset_clearAcc : busReset (clearAcc s) = ((busReset s).1, clearAcc (busReset s).2) := by
  simp only [busReset, clearAcc]; split <;> rfl

theorem exchange_clearAcc (n : Nat) : exchange n (clearAcc s) = clearAcc (exchange n s) := by
  simp only [exchange, afterExchange, received, clearAcc, record]; split <;> rfl

theorem readByte_clearAcc : readByte (clearAcc s) = clearAcc (readByte s) := by
  simp only [readByte, clearAcc, record]; split <;> rfl

theorem finishPhase_clearAcc (c : Status) : finishPhase (c, clearAcc s) = clearAcc (finishPhase (c, s)) := by
  simp only [finishPhase]; split <;> rfl

theorem probe_clearAcc : probe (clearAcc s) = ((probe s).1, clearAcc (probe s).2) := by
  have hb := busReset_clearAcc (setSeq .selReset s)
  exact congrArg (fun r : Bool × State => (r.1, setPresent r.1 r.2)) hb

theorem frameMatch_clearAcc (v : Bytes 8) : frameMatch v (clearAcc s) = clearAcc (frameMatch v s) :=
  exchange_clearAcc (matchCall v s) 9

theorem frameCopy_clearAcc (a : Word) : frameCopy a (clearAcc s) = clearAcc (frameCopy a s) :=
  exchange_clearAcc (copyCall a s) 3

theorem frameAuth_clearAcc : frameAuth (clearAcc s) = clearAcc (frameAuth s) := exchange_clearAcc (authCall s) 1

theorem select_clearAcc : select (clearAcc s) = ((select s).1, clearAcc (select s).2) := by
  simp only [select, probe_clearAcc]
  split
  · exact congrArg (Prod.mk _) (frameMatch_clearAcc (probe s).2 (probe s).2.id)
  · rfl

theorem selectCalls_clearAcc : selectCalls (clearAcc s) = (selectCalls s).map clearAcc := by
  simp only [selectCalls, probe_clearAcc]
  split <;> rfl

theorem confirm_clearAcc : confirm (clearAcc s) = clearAcc (confirm s) := readByte_clearAcc (setSeq .cpConf s)

theorem phase2_clearAcc (a : Word) : phase2 a (clearAcc s) = ((phase2 a s).1, clearAcc (phase2 a s).2) := by
  simp only [phase2, select_clearAcc]
  split
  · have hon (u : State) : powerOn (clearAcc u) = clearAcc (powerOn u) := rfl
    have hoff (u : State) : powerOff (waitSettle (clearAcc u)) = clearAcc (powerOff (waitSettle u)) := rfl
    rw [frameCopy_clearAcc, hon, frameAuth_clearAcc, hoff, confirm_clearAcc]
    rfl
  · rfl

theorem copyCalls_clearAcc (a : Word) : copyCalls a (clearAcc s) = (copyCalls a s).map clearAcc := by
  have hon (u : State) : powerOn (clearAcc u) = clearAcc (powerOn u) := rfl
  simp only [copyCalls, frameCopy_clearAcc, hon, frameAuth_clearAcc]
  rfl

theorem phase2Calls_clearAcc (a : Word) : phase2Calls a (clearAcc s) = (phase2Calls a s).map clearAcc := by
  simp only [phase2Calls, select_clearAcc, selectCalls_clearAcc, copyCalls_clearAcc]
  split <;> simp

/-! ### What looks at it, after `ACC <- 0` -/

@[simp] theorem enterRead_clearAcc : enterRead (clearAcc s) = enterRead s := rfl
@[simp] theorem enterScratch_clearAcc : enterScratch (clearAcc s) = enterScratch s := rfl

/-- With a device present, Phase 1 clears `ACC` after its selection. -/
theorem phase1_clearAcc_of_present (a : Word) (d : Bytes 32) (hp : (select s).1 = true) :
    phase1 a d (clearAcc s) = phase1 a d s := by
  simp only [phase1, select_clearAcc, hp, if_true, enterScratch_clearAcc]

theorem phase1_clearAcc_of_absent (a : Word) (d : Bytes 32) (hp : (select s).1 = false) :
    phase1 a d (clearAcc s) = ((phase1 a d s).1, clearAcc (phase1 a d s).2) := by
  simp only [phase1, select_clearAcc, hp, Bool.false_eq_true, if_false]

theorem phase1_clearAcc_fst (a : Word) (d : Bytes 32) : (phase1 a d (clearAcc s)).1 = (phase1 a d s).1 := by
  cases hp : (select s).1 with
  | true => rw [phase1_clearAcc_of_present s a d hp]
  | false => rw [phase1_clearAcc_of_absent s a d hp]

/-! ### Operations -/

theorem select_of_phase1_ok {s : State} {a : Word} {d : Bytes 32} (h : (phase1 a d s).1 = .ok) : (select s).1 = true := by
  by_contra hp
  simp [phase1, hp] at h

/-- `WRITE_PAGE` without a device commutes, with one it is the same from its `ACC <- 0` on. -/
theorem writePage_clearAcc : clearAcc (writePage (clearAcc s)) = clearAcc (writePage s) := by
  have hw : writePage (clearAcc s) =
      if (phase1 (pageAddr s.argPidx) s.wdata (clearAcc (setWState .idle s))).1 = .ok then
        commitStaged (pageAddr s.argPidx) (phase1 (pageAddr s.argPidx) s.wdata (clearAcc (setWState .idle s))).2
      else fail (phase1 (pageAddr s.argPidx) s.wdata (clearAcc (setWState .idle s))).1
        (setWState .aborted (phase1 (pageAddr s.argPidx) s.wdata (clearAcc (setWState .idle s))).2) := rfl
  cases hp : (select (setWState .idle s)).1 with
  | true =>
    rw [phase1_clearAcc_of_present _ _ _ hp] at hw
    rw [hw]
    rfl
  | false =>
    have hk : (phase1 (pageAddr s.argPidx) s.wdata (setWState .idle s)).1 ≠ .ok := fun h => by
      simp [select_of_phase1_ok h] at hp
    rw [phase1_clearAcc_of_absent _ _ _ hp, if_neg hk] at hw
    rw [hw, writePage_of_phase1_fail s hk]
    rfl

theorem readPageEnd_clearAcc : clearAcc (readPageEnd (clearAcc s)) = clearAcc (readPageEnd s) := by
  have hs : select (clearRvalid (clearAcc s)) = ((select (clearRvalid s)).1, clearAcc (select (clearRvalid s)).2) :=
    select_clearAcc (clearRvalid s)
  simp only [readPageEnd, hs, enterRead_clearAcc, clearAcc_argPidx]
  split <;> rfl

theorem selectEnd_clearAcc : selectEnd (clearAcc s) = clearAcc (selectEnd s) := by
  simp only [selectEnd, select_clearAcc]
  split <;> rfl

theorem writeScratchpadEnd_clearAcc (a : Word) (d : Bytes 32) :
    clearAcc (finishPhase (phase1 a d (clearAcc s))) = clearAcc (finishPhase (phase1 a d s)) := by
  cases hp : (select s).1 with
  | true => rw [phase1_clearAcc_of_present s a d hp]
  | false => rw [phase1_clearAcc_of_absent s a d hp, finishPhase_clearAcc, clearAcc_clearAcc]

/-- The end of a bus operation from two accumulators is the same, apart from `ACC`. -/
theorem instrEnd_clearAcc {i : Instr} (hi : i ∈ hostOps) (hc : i ∉ crcOps) :
    clearAcc (instrEnd i (clearAcc s)) = clearAcc (instrEnd i s) := by
  cases i with
  | crcReset | crcAcc | crcCheck => simp [crcOps] at hc
  | wMatch _ | wRead _ | wReadc | wWsp _ _ | wCopy _ | wAuth => simp [hostOps] at hi
  | select => exact (congrArg clearAcc (selectEnd_clearAcc s)).trans (clearAcc_clearAcc _)
  | readPage => exact readPageEnd_clearAcc s
  | readPageC => rfl
  | writeScratchpad => exact writeScratchpadEnd_clearAcc s s.argAddr s.wdata
  | copyScratchpad =>
    have hp := (congrArg finishPhase (phase2_clearAcc s s.argAddr)).trans (finishPhase_clearAcc ..)
    exact (congrArg clearAcc hp).trans (clearAcc_clearAcc _)
  | writePage => exact writePage_clearAcc s

/-! ### Their calls -/

theorem map_map_clearAcc (l : List State) : (l.map clearAcc).map clearAcc = l.map clearAcc := by
  rw [List.map_map]; rfl

theorem phase1Calls_clearAcc (a : Word) (d : Bytes 32) :
    (phase1Calls a d (clearAcc s)).map clearAcc = (phase1Calls a d s).map clearAcc := by
  simp only [phase1Calls, select_clearAcc, selectCalls_clearAcc, enterScratch_clearAcc, List.map_append, map_map_clearAcc]

theorem readPageCalls_clearAcc : (readPageCalls (clearAcc s)).map clearAcc = (readPageCalls s).map clearAcc := by
  have hs : select (clearRvalid (clearAcc s)) = ((select (clearRvalid s)).1, clearAcc (select (clearRvalid s)).2) :=
    select_clearAcc (clearRvalid s)
  have hc : selectCalls (clearRvalid (clearAcc s)) = (selectCalls (clearRvalid s)).map clearAcc :=
    selectCalls_clearAcc (clearRvalid s)
  simp only [readPageCalls, hs, hc, enterRead_clearAcc, clearAcc_argPidx, List.map_append, map_map_clearAcc]

theorem writePageCalls_clearAcc : (writePageCalls (clearAcc s)).map clearAcc = (writePageCalls s).map clearAcc := by
  have hw : writePageCalls (clearAcc s) =
      phase1Calls (pageAddr s.argPidx) s.wdata (clearAcc (setWState .idle s)) ++
        if (phase1 (pageAddr s.argPidx) s.wdata (clearAcc (setWState .idle s))).1 = .ok then
          phase2Calls (pageAddr s.argPidx)
            (setWState .scratchpadStaged (phase1 (pageAddr s.argPidx) s.wdata (clearAcc (setWState .idle s))).2)
        else [] := rfl
  rw [hw, phase1_clearAcc_fst, List.map_append, phase1Calls_clearAcc, writePageCalls, List.map_append]
  congr 2
  split
  · rw [phase1_clearAcc_of_present _ _ _ (select_of_phase1_ok ‹_›)]
  · rfl

theorem instrCalls_clearAcc {i : Instr} (hi : i ∈ hostOps) :
    (instrCalls i (clearAcc s)).map clearAcc = (instrCalls i s).map clearAcc := by
  cases i with
  | wMatch _ | wRead _ | wReadc | wWsp _ _ | wCopy _ | wAuth => simp [hostOps] at hi
  | crcReset | crcAcc | crcCheck | readPageC => rfl
  | select => exact (congrArg _ (selectCalls_clearAcc s)).trans (map_map_clearAcc _)
  | readPage => exact readPageCalls_clearAcc s
  | writeScratchpad => exact phase1Calls_clearAcc s s.argAddr s.wdata
  | copyScratchpad => exact (congrArg _ (phase2Calls_clearAcc s s.argAddr)).trans (map_map_clearAcc _)
  | writePage => exact writePageCalls_clearAcc s

/-! ### The delivery -/

theorem hungCall_map_clearAcc (calls : List State) : hungCall s (calls.map clearAcc) = (hungCall s calls).map clearAcc := by
  induction calls with
  | nil => simp
  | cons p l ih =>
    rw [List.map_cons, hungCall_cons, hungCall_cons, ih, clearAcc_trace]
    split <;> rfl

theorem viewState_unlessRefused (t : State) (o : Host.Outcome State Fault Refusal) :
    viewState clearAcc (unlessRefused s t o) = unlessRefused s (clearAcc t) (viewState clearAcc o) := by
  unfold unlessRefused
  rw [clearAcc_envOutside]
  split <;> rfl

/-- A delivery seen without `ACC` delivers the same work without `ACC`. -/
theorem viewState_deliver (calls : List State) (t : State) :
    viewState clearAcc (deliver s calls t) = deliver s (calls.map clearAcc) (clearAcc t) := by
  unfold deliver
  rw [hungCall_map_clearAcc]
  cases hungCall s calls with
  | none => exact viewState_unlessRefused s t _
  | some p => exact viewState_unlessRefused s p _

/-- A bus operation has the same outcome, apart from `ACC`, as from the state with `ACC` 0. -/
theorem exec_clearAcc {i : Instr} (hi : i ∈ hostOps) (hc : i ∉ crcOps) :
    viewState clearAcc (exec i (clearAcc s)) = viewState clearAcc (exec i s) := by
  rw [exec_eq_deliver hc, exec_eq_deliver hc, viewState_deliver, viewState_deliver, instrCalls_clearAcc s hi,
    instrEnd_clearAcc s hi hc]
  exact deliver_congr rfl rfl

/-- Settles O37: two states that differ only in `ACC` are the same after `clearAcc`. -/
theorem busOperationsDoNotReadAcc : Obligations.BusOperationsDoNotReadAcc := by
  unfold Obligations.BusOperationsDoNotReadAcc
  intro i s a hi hc
  exact (exec_clearAcc { s with acc := a } hi hc).symm.trans (exec_clearAcc s hi hc)

end Sys2Proof.Machine
end

section
/-! PROOFS. Reset, and the steps that are one move of the outside or one frame (R7, R11, R24, R33, R85, R155, R172). -/

namespace Sys2Proof.Machine

variable {s t : State} {i : Instr} {rest : List HostMove}

/-! ### Reset -/

/-- Settles O38: R33 names these values. -/
theorem resetLeavesPiocIdle : Obligations.ResetLeavesPiocIdle := ⟨rfl, rfl, rfl, rfl, rfl, rfl⟩

/-- Settles O43: PIOC is idle at reset, and no reference environment stands behind the bus. -/
theorem resetMeetsTheInvariant : Obligations.ResetMeetsTheInvariant :=
  ⟨fun _ => ⟨⟨rfl, rfl, rfl⟩, nofun⟩, nofun, Nat.zero_le 37, trivial⟩

/-! ### The moves of the outside -/

theorem step_of_no_move (hb : s.busy = false) (hm : s.inbox = []) : step s = .next s := by
  rw [step_of_idle hb, hostStep, hm]

theorem step_of_command {b : Byte} (hb : s.busy = false) (hm : s.inbox = .command b :: rest) :
    step s = present b { s with inbox := rest } := by
  rw [step_of_idle hb, hostStep, hm]

/-- Every move but a command is a write (R22, R26, R155). -/
theorem step_of_move {m : HostMove} (hb : s.busy = false) (hm : s.inbox = m :: rest) (hc : ∀ b, m ≠ .command b) :
    step s = .next (hostWrite m { s with inbox := rest }) := by
  rw [step_of_idle hb, hostStep, hm]
  cases m with
  | command b => exact absurd rfl (hc b)
  | provideId _ | writeArgByte _ | writeArgPidx _ | writeArgAddr _ | writeWdata _ | hardReset => rfl

/-- Settles O42: each of the five moves is a write of its register. -/
theorem outsideMovesWriteTheirLatchOnly : Obligations.OutsideMovesWriteTheirLatchOnly := by
  unfold Obligations.OutsideMovesWriteTheirLatchOnly
  intro s rest hb
  exact ⟨step_of_no_move hb, fun _ hm => step_of_move hb hm nofun, fun _ hm => step_of_move hb hm nofun,
    fun _ hm => step_of_move hb hm nofun, fun _ hm => step_of_move hb hm nofun, fun _ hm => step_of_move hb hm nofun⟩

/-- Settles O56: the move writes the registers as the first reset left them, and nothing outside PIOC. -/
theorem hardwareResetOfAnIdlePioc : Obligations.HardwareResetOfAnIdlePioc := by
  unfold Obligations.HardwareResetOfAnIdlePioc
  intro s rest hb hm
  refine ⟨resetRegisters { s with inbox := rest }, step_of_move hb hm nofun, ?_⟩
  simp

/-! ### The frame at the control position -/

/-- A step that runs a frame which completes (R24, R85). -/
theorem step_of_frame (hb : s.busy = true) (hf : frameAt s = some i) (h : exec i s = .next t) :
    step s = .next (leaveFrame t) := by
  rw [step_of_busy hb, busyStep_of_frame hf, h]
  rfl

/-! Where a frame's end leads to (R24). -/

theorem leaveFrame_frameMatch (v : Bytes 8) (s : State) :
    leaveFrame (frameMatch v s) = leaveSelector (frameMatch v s) := by simp [leaveFrame]
theorem leaveFrame_frameRead (a : Word) (s : State) :
    leaveFrame (frameRead a s) = setSeq .rdCheck (frameRead a s) := by simp [leaveFrame]
theorem leaveFrame_frameReadc (s : State) :
    leaveFrame (frameReadc s) = setSeq .rdCheck (frameReadc s) := by simp [leaveFrame]
theorem leaveFrame_frameWsp (a : Word) (d : Bytes 32) (s : State) :
    leaveFrame (frameWsp a d s) = setSeq .wsCheck (frameWsp a d s) := by simp [leaveFrame]
theorem leaveFrame_frameCopy (a : Word) (s : State) :
    leaveFrame (frameCopy a s) = setSeq .cpPwrOn (frameCopy a s) := by simp [leaveFrame]
theorem leaveFrame_frameAuth (s : State) :
    leaveFrame (frameAuth s) = setSeq .cpWait (frameAuth s) := by simp [leaveFrame]

/-- Settles O40: at each of the five positions where a frame begins, the frame's end and where it leads to. -/
theorem stepRunsTheFrameAtThePosition : Obligations.StepRunsTheFrameAtThePosition := by
  unfold Obligations.StepRunsTheFrameAtThePosition
  intro s t hb
  refine ⟨fun hq h => ?_, fun hq hc h => ?_, fun hq hc h => ?_, fun hq h => ?_, fun hq h => ?_, fun hq h => ?_⟩
  · rw [step_of_frame hb (by rw [frameAt, hq]) h, eq_execEnd_of_next h]
    exact congrArg _ (leaveFrame_frameMatch s.id s)
  · rw [step_of_frame hb (by simp [frameAt, hq, hc]) h, eq_execEnd_of_next h]
    exact congrArg _ (leaveFrame_frameRead _ s)
  · rw [step_of_frame hb (by simp [frameAt, hq, hc]) h, eq_execEnd_of_next h]
    exact congrArg _ (leaveFrame_frameReadc s)
  · rw [step_of_frame hb (by rw [frameAt, hq]) h, eq_execEnd_of_next h]
    exact congrArg _ (leaveFrame_frameWsp _ _ s)
  · rw [step_of_frame hb (by rw [frameAt, hq]) h, eq_execEnd_of_next h]
    exact congrArg _ (leaveFrame_frameCopy _ s)
  · rw [step_of_frame hb (by rw [frameAt, hq]) h, eq_execEnd_of_next h]
    exact congrArg _ (leaveFrame_frameAuth s)

end Sys2Proof.Machine
end

section
/-! PROOFS. Every step keeps the invariant (R23 to R25, R122, R129, R171). The invariant has three parts, and each has its own
lemmas: the control position with the power level and `WSTATE` (`controlFits`), `TBLEN`, and the environment. A step is a move
of the outside, a whole operation, the first micro-step of an operation, or the work at a control position. -/

namespace Sys2Proof.Machine

variable {s t : State} {i : Instr}

/-! ### The control part -/

/-- The part of the invariant about the control position, the bus power level and the write state machine. -/
def State.controlFits (s : State) : Prop :=
  (s.busy = false → s.ended ∧ s.wstate ≠ .scratchpadStaged) ∧ (s.busy = true → s.seqFits)

theorem controlFits_of_ended (hb : s.busy = false) (hq : s.seq = .idle) (hp : s.busPower = .standard)
    (hw : s.wstate ≠ .scratchpadStaged) : s.controlFits :=
  ⟨fun _ => ⟨⟨hb, hq, hp⟩, hw⟩, fun h => Bool.noConfusion (hb.symm.trans h)⟩

theorem controlFits_of_busy (hb : s.busy = true) (h : s.seqFits) : s.controlFits :=
  ⟨fun h => Bool.noConfusion (hb.symm.trans h), fun _ => h⟩

theorem inv_of_parts (hc : s.controlFits) (hl : s.tbLen.toNat ≤ 37) (ho : s.envOutside = false) (hm : s.MemOk) : s.Inv :=
  ⟨hc.1, hc.2, hl, envFits_iff.mpr ⟨ho, hm⟩⟩

/-- In the same operation, as far in its write, and at the same power level: what tells which control positions fit. -/
structure State.sameOp (s t : State) : Prop where
  opc : t.opc = s.opc
  argCont : t.argCont = s.argCont
  wstate : t.wstate = s.wstate
  busy : t.busy = s.busy
  busPower : t.busPower = s.busPower

namespace State.sameOp

variable {p : PowerLevel} (h : s.sameOp t)
include h

theorem running : runningOp t = runningOp s := runningOp_congr h.opc h.argCont

theorem selecting (hs : s.inSelection ∧ s.busPower = p) : t.inSelection ∧ t.busPower = p := by
  simpa only [State.inSelection, h.running, h.wstate, h.busPower] using hs
theorem reading (hs : s.inRead ∧ s.busPower = p) : t.inRead ∧ t.busPower = p := by
  simpa only [State.inRead, h.running, h.wstate, h.busPower] using hs
theorem staging (hs : s.inPhase1 ∧ s.busPower = p) : t.inPhase1 ∧ t.busPower = p := by
  simpa only [State.inPhase1, h.running, h.wstate, h.busPower] using hs
theorem copying (hs : s.inPhase2 ∧ s.busPower = p) : t.inPhase2 ∧ t.busPower = p := by
  simpa only [State.inPhase2, h.running, h.wstate, h.busPower] using hs

end State.sameOp

/-! ### The ends of the parts of an operation -/

/-- The return from the Device Selector is to a position of the operation that called it (R24, R105). -/
theorem leaveSelector_controlFits (hb : s.busy = true) (h : s.inSelection ∧ s.busPower = .standard) :
    (leaveSelector s).controlFits := by
  obtain ⟨⟨hw, hr | hr | hr | hr⟩ | ⟨hr, hw | hw⟩, hp⟩ := h
  · rw [show leaveSelector s = done .success s by simp [leaveSelector, hr]]
    exact controlFits_of_ended rfl rfl hp hw
  · rw [show leaveSelector s = enterRead s by simp [leaveSelector, hr]]
    exact controlFits_of_busy hb ⟨⟨hw, .inl hr⟩, hp⟩
  · rw [show leaveSelector s = enterScratch s by simp [leaveSelector, hr]]
    exact controlFits_of_busy hb ⟨.inl ⟨hr, hw⟩, hp⟩
  · rw [show leaveSelector s = setSeq .cpCmd s by simp [leaveSelector, hr]]
    exact controlFits_of_busy hb ⟨.inl ⟨hr, hw⟩, hp⟩
  · rw [show leaveSelector s = enterScratch s by simp [leaveSelector, hr, hw]]
    exact controlFits_of_busy hb ⟨.inr ⟨hr, hw⟩, hp⟩
  · rw [show leaveSelector s = setSeq .cpCmd s by simp [leaveSelector, hr, hw]]
    exact controlFits_of_busy hb ⟨.inr ⟨hr, hw⟩, hp⟩

/-- A selection without a device ends the operation (R109, R127). -/
theorem failSelection_controlFits (h : s.inSelection ∧ s.busPower = .standard) :
    (failSelection s).controlFits := by
  obtain ⟨hs, hp⟩ := h
  unfold failSelection
  split
  · exact controlFits_of_ended rfl rfl hp (by simp only [fail_wstate, setWState_wstate]; split <;> nofun)
  · rename_i hr
    exact controlFits_of_ended rfl rfl hp (hs.elim (·.1) fun h => absurd h.1 hr)

/-- The check of Phase 1 ends the operation, or goes on to the selection of Phase 2 (R120, R124). -/
theorem checkScratch_controlFits (hb : s.busy = true) (h : s.inPhase1 ∧ s.busPower = .standard) :
    (checkScratch s).controlFits := by
  obtain ⟨hs, hp⟩ := h
  unfold checkScratch
  split
  · rename_i hr
    split
    · exact controlFits_of_busy hb ⟨.inr ⟨hr, .inr rfl⟩, hp⟩
    · exact controlFits_of_ended rfl rfl hp nofun
  · rename_i hr
    have hw : s.wstate ≠ .scratchpadStaged := hs.elim (·.2) fun h => absurd h.1 hr
    exact controlFits_of_ended (by simp) (by simp) (by simp [hp]) (by simpa using hw)

/-- The check of Phase 2 ends the operation (R122, R124). -/
theorem checkCopy_controlFits (h : s.inPhase2 ∧ s.busPower = .standard) : (checkCopy s).controlFits := by
  obtain ⟨hs, hp⟩ := h
  unfold checkCopy
  split
  · exact controlFits_of_ended (by simp) (by simp) (by simp [hp])
      (by simp only [finishPhase_wstate, setWState_wstate]; split <;> nofun)
  · rename_i hr
    have hw : s.wstate ≠ .scratchpadStaged := hs.elim (·.2) fun h => absurd h.1 hr
    exact controlFits_of_ended (by simp) (by simp) (by simp [hp]) (by simpa using hw)

/-! ### The first micro-step of an operation -/

/-- Beginning an operation makes no transport call, and leads to the first position of the operation, or ends it. -/
theorem beginOp_keeps (hb : s.busy = true) (hr : (runningOp s).isSome = true) (hw : s.wstate ≠ .scratchpadStaged)
    (hp : s.busPower = .standard) (h : beginOp s = .next t) :
    t.controlFits ∧ t.tbLen = s.tbLen ∧ t.env = s.env := by
  obtain ⟨i, hi⟩ := Option.isSome_iff_exists.mp hr
  have hm := runningOp_mem_hostOps hi
  simp only [hostOps, List.mem_cons, List.not_mem_nil, or_false] at hm
  rw [beginOp, hi] at h
  rcases hm with rfl | rfl | rfl | rfl | rfl | rfl | rfl | rfl | rfl <;> obtain rfl := Host.Outcome.next.inj h <;>
    refine ⟨?_, rfl, rfl⟩
  · exact controlFits_of_ended rfl rfl hp hw
  · exact controlFits_of_ended rfl rfl hp hw
  · exact controlFits_of_ended rfl rfl hp hw
  · exact controlFits_of_busy hb ⟨.inl ⟨hw, .inl hi⟩, hp⟩
  · exact controlFits_of_busy hb ⟨.inl ⟨hw, .inr (.inl hi)⟩, hp⟩
  · exact controlFits_of_busy hb ⟨⟨hw, .inr hi⟩, hp⟩
  · exact controlFits_of_busy hb ⟨.inl ⟨hw, .inr (.inr (.inl hi))⟩, hp⟩
  · exact controlFits_of_busy hb ⟨.inl ⟨hw, .inr (.inr (.inr hi))⟩, hp⟩
  · exact controlFits_of_busy hb ⟨.inr ⟨hi, .inl rfl⟩, hp⟩

/-! ### The work at a control position -/

/-- The state after the work at the control position of a running operation; of `idle` it says nothing (see beginOp). -/
def positionEnd (s : State) : State :=
  match s.seq with
  | .idle => s
  | .selReset => if (probe s).1 then setSeq .selMatch (probe s).2 else failSelection (probe s).2
  | .selMatch => leaveSelector (frameMatch s.id s)
  | .rdHdr => setSeq .rdCheck (if s.argCont then frameReadc s else frameRead (pageAddr s.argPidx) s)
  | .rdXchg => setSeq .rdFold (exchange s.tbLen.toNat s)
  | .rdFold => setSeq .rdCheck (foldBytes ((s.tb.toList.drop (readOffset s)).take 34) s)
  | .rdCheck => finishRead (readOffset s) s
  | .wsBuild => setSeq .wsCheck (frameWsp (writeAddr s) s.wdata s)
  | .wsXchg => setSeq .wsFold (exchange s.tbLen.toNat s)
  | .wsFold => setSeq .wsCheck (foldBytes ((s.tb.toList.drop 35).take 2) s)
  | .wsCheck => checkScratch s
  | .cpCmd => setSeq .cpPwrOn (frameCopy (writeAddr s) s)
  | .cpPwrOn => setSeq .cpAuth (powerOn s)
  | .cpAuth => setSeq .cpWait (frameAuth s)
  | .cpWait => setSeq .cpPwrOff (waitSettle s)
  | .cpPwrOff => setSeq .cpConf (powerOff s)
  | .cpConf => setSeq .cpCheck (confirm s)
  | .cpCheck => checkCopy s

theorem step_at_frame (hb : s.busy = true) (hf : frameAt s = some i) (hl : leaveFrame (instrEnd i s) = t) :
    ∃ calls, step s = deliver s calls t :=
  ⟨instrCalls i s, (runSteps_one s).symm.trans (Runs.of_frame hb hf hl).run⟩

/-- A step without a call is a delivery too, where the environment is inside its definition. -/
theorem step_without_call (h : step s = .next t) (he : t.env = s.env) (ho : s.envOutside = false) :
    ∃ calls, step s = deliver s calls t :=
  ⟨[], h.trans (deliver_of_inside hungCall_nil (by rwa [State.envOutside, he])).symm⟩

/-- The step at a control position is the delivery of `positionEnd` (R24). -/
theorem step_eq_deliver_positionEnd (hb : s.busy = true) (hq : s.seq ≠ .idle) (ho : s.envOutside = false) :
    ∃ calls, step s = deliver s calls (positionEnd s) := by
  cases hs : s.seq with
  | idle => exact absurd hs hq
  | selMatch =>
    exact step_at_frame (i := .wMatch s.id) hb (by rw [frameAt, hs])
      ((leaveFrame_frameMatch s.id s).trans (by rw [positionEnd, hs]))
  | rdHdr =>
    cases hc : s.argCont with
    | true =>
      exact step_at_frame (i := .wReadc) hb (by simp [frameAt, hs, hc])
        ((leaveFrame_frameReadc s).trans (by simp [positionEnd, hs, hc]))
    | false =>
      exact step_at_frame (i := .wRead (pageAddr s.argPidx)) hb (by simp [frameAt, hs, hc])
        ((leaveFrame_frameRead _ s).trans (by simp [positionEnd, hs, hc]))
  | wsBuild =>
    exact step_at_frame (i := .wWsp (writeAddr s) s.wdata) hb (by rw [frameAt, hs])
      ((leaveFrame_frameWsp _ _ s).trans (by rw [positionEnd, hs]))
  | cpCmd =>
    exact step_at_frame (i := .wCopy (writeAddr s)) hb (by rw [frameAt, hs])
      ((leaveFrame_frameCopy _ s).trans (by rw [positionEnd, hs]))
  | cpAuth =>
    exact step_at_frame (i := .wAuth) hb (by rw [frameAt, hs])
      ((leaveFrame_frameAuth s).trans (by rw [positionEnd, hs]))
  | selReset =>
    exact ⟨[setSeq .selReset s], by rw [step_of_position hb (by rw [frameAt, hs]), sequencerStep, positionEnd, hs]⟩
  | rdXchg | wsXchg | cpPwrOn | cpWait | cpPwrOff | cpConf =>
    exact ⟨[s], by rw [step_of_position hb (by rw [frameAt, hs]), sequencerStep, positionEnd, hs]⟩
  | rdFold | rdCheck | wsFold | wsCheck | cpCheck =>
    exact step_without_call
      (by rw [step_of_position hb (by rw [frameAt, hs]), sequencerStep, positionEnd, hs]) (by simp [positionEnd, hs]) ho

/-- The next control position fits the operation in progress, or the operation has ended. -/
theorem positionEnd_controlFits (hb : s.busy = true) (hq : s.seq ≠ .idle) (h : s.seqFits) :
    (positionEnd s).controlFits := by
  unfold State.seqFits at h
  cases hs : s.seq <;> simp only [hs] at h <;> simp only [positionEnd, hs]
  case idle => exact absurd hs hq
  case selReset =>
    have hop : s.sameOp (probe s).2 := by constructor <;> simp
    split
    · exact controlFits_of_busy (hop.busy.trans hb) (hop.selecting h)
    · exact failSelection_controlFits (hop.selecting h)
  case selMatch =>
    have hop : s.sameOp (frameMatch s.id s) := by constructor <;> simp
    exact leaveSelector_controlFits (hop.busy.trans hb) (hop.selecting h)
  case rdHdr =>
    split
    · have hop : s.sameOp (frameReadc s) := by constructor <;> simp
      exact controlFits_of_busy (hop.busy.trans hb) (hop.reading h)
    · have hop : s.sameOp (frameRead (pageAddr s.argPidx) s) := by constructor <;> simp
      exact controlFits_of_busy (hop.busy.trans hb) (hop.reading h)
  case rdXchg =>
    have hop : s.sameOp (exchange s.tbLen.toNat s) := by constructor <;> simp
    exact controlFits_of_busy (hop.busy.trans hb) (hop.reading h)
  case rdFold => exact controlFits_of_busy hb h
  case rdCheck =>
    obtain ⟨⟨hw, -⟩, hp⟩ := h
    exact controlFits_of_ended (by simp) (by simp) (by simp [hp]) (by simpa using hw)
  case wsBuild =>
    have hop : s.sameOp (frameWsp (writeAddr s) s.wdata s) := by constructor <;> simp
    exact controlFits_of_busy (hop.busy.trans hb) (hop.staging h)
  case wsXchg =>
    have hop : s.sameOp (exchange s.tbLen.toNat s) := by constructor <;> simp
    exact controlFits_of_busy (hop.busy.trans hb) (hop.staging h)
  case wsFold => exact controlFits_of_busy hb h
  case wsCheck => exact checkScratch_controlFits hb h
  case cpCmd =>
    have hop : s.sameOp (frameCopy (writeAddr s) s) := by constructor <;> simp
    exact controlFits_of_busy (hop.busy.trans hb) (hop.copying h)
  case cpPwrOn => exact controlFits_of_busy hb ⟨h.1, rfl⟩
  case cpAuth =>
    have hop : s.sameOp (frameAuth s) := by constructor <;> simp
    exact controlFits_of_busy (hop.busy.trans hb) (hop.copying h)
  case cpWait => exact controlFits_of_busy hb h
  case cpPwrOff => exact controlFits_of_busy hb ⟨h.1, rfl⟩
  case cpConf =>
    have hop : s.sameOp (confirm s) := by constructor <;> simp [confirm]
    exact controlFits_of_busy (hop.busy.trans hb) (hop.copying h)
  case cpCheck => exact checkCopy_controlFits h

/-! ### `TBLEN` -/

@[simp] theorem leaveSelector_tbLen (s : State) : (leaveSelector s).tbLen = s.tbLen := by
  unfold leaveSelector
  split
  · rfl
  · rfl
  · rfl
  · split <;> rfl
  · rfl

@[simp] theorem failSelection_tbLen (s : State) : (failSelection s).tbLen = s.tbLen := by
  unfold failSelection
  split <;> rfl

@[simp] theorem checkScratch_tbLen (s : State) : (checkScratch s).tbLen = s.tbLen := by
  unfold checkScratch
  split
  · split <;> rfl
  · simp

@[simp] theorem checkCopy_tbLen (s : State) : (checkCopy s).tbLen = s.tbLen := by
  unfold checkCopy
  split <;> simp

/-- A control position leaves `TBLEN` as it is, or at the length of its frame (R23). -/
theorem positionEnd_tbLen_le (h : s.tbLen.toNat ≤ 37) : (positionEnd s).tbLen.toNat ≤ 37 := by
  cases hs : s.seq <;> simp only [positionEnd, hs]
  case selReset => split <;> simpa using h
  case selMatch => simp
  case rdHdr => split <;> simp
  case wsBuild => simp
  case cpCmd => simp
  case cpAuth => simp
  case cpConf => simpa [confirm] using h
  case idle | rdFold | wsFold | cpPwrOn | cpPwrOff => exact h
  case cpWait => simpa [waitSettle] using h
  case rdXchg | rdCheck | wsXchg | wsCheck | cpCheck => simpa using h

theorem selectEnd_tbLen_le (h : s.tbLen.toNat ≤ 37) : (selectEnd s).tbLen.toNat ≤ 37 := by
  have := select_tbLen_le h
  simp only [selectEnd]
  split <;> exact this

theorem readPageEnd_tbLen_le (h : s.tbLen.toNat ≤ 37) : (readPageEnd s).tbLen.toNat ≤ 37 := by
  simp only [readPageEnd]
  split
  · simp
  · exact select_tbLen_le (s := clearRvalid s) h

theorem writePage_tbLen_le (h : s.tbLen.toNat ≤ 37) : (writePage s).tbLen.toNat ≤ 37 := by
  have h1 := phase1_tbLen_le (s := setWState .idle s) (pageAddr s.argPidx) s.wdata h
  simp only [writePage]
  split
  · simpa [commitStaged] using phase2_tbLen_le (s := setWState .scratchpadStaged _) (pageAddr s.argPidx) h1
  · exact h1

theorem execEnd_tbLen_le (hi : i ∈ hostOps) (h : s.tbLen.toNat ≤ 37) : (execEnd i s).tbLen.toNat ≤ 37 := by
  cases i with
  | wMatch _ | wRead _ | wReadc | wWsp _ _ | wCopy _ | wAuth => simp [hostOps] at hi
  | crcReset | crcAcc | crcCheck => exact h
  | select => exact selectEnd_tbLen_le h
  | readPage => exact readPageEnd_tbLen_le h
  | readPageC => simp [execEnd, instrEnd]
  | writeScratchpad => simpa [execEnd, instrEnd] using phase1_tbLen_le s.argAddr s.wdata h
  | copyScratchpad => simpa [execEnd, instrEnd] using phase2_tbLen_le s.argAddr h
  | writePage => exact writePage_tbLen_le h

/-! ### The environment -/

@[simp] theorem leaveSelector_mem? (s : State) : (leaveSelector s).mem? = s.mem? := by simp [State.mem?]
@[simp] theorem failSelection_mem? (s : State) : (failSelection s).mem? = s.mem? := by simp [State.mem?]
@[simp] theorem checkScratch_mem? (s : State) : (checkScratch s).mem? = s.mem? := by simp [State.mem?]
@[simp] theorem checkCopy_mem? (s : State) : (checkCopy s).mem? = s.mem? := by simp [State.mem?]

/-- Only the settling delay touches the device's memory (R68). -/
theorem positionEnd_mem? (hw : s.seq ≠ .cpWait) : (positionEnd s).mem? = s.mem? := by
  cases hs : s.seq <;> simp only [positionEnd, hs]
  case cpWait => exact absurd hs hw
  case selReset => split <;> simp
  case rdHdr => split <;> simp
  all_goals simp

theorem positionEnd_memOk (h : s.MemOk) : (positionEnd s).MemOk := by
  by_cases hs : s.seq = .cpWait
  · rw [positionEnd, hs]
    exact settle_memOk (s := setSeq .cpWait s) h
  · exact h.congr (positionEnd_mem? hs)

theorem positionEnd_env_none (h : s.env = none) : (positionEnd s).env = none := by
  by_cases hs : s.seq = .cpWait
  · simp [positionEnd, hs, waitSettle, h]
  · exact env_none_of_mem? (positionEnd_mem? hs) h

@[simp] theorem selectEnd_mem? (s : State) : (selectEnd s).mem? = s.mem? := by simp only [selectEnd]; split <;> simp
@[simp] theorem readPageEnd_mem? (s : State) : (readPageEnd s).mem? = s.mem? := by
  simp only [readPageEnd]; split <;> simp

/-- Only the copies touch the device's memory (R61). -/
theorem execEnd_mem? (hi : i ∉ [.copyScratchpad, .writePage]) (s : State) : (execEnd i s).mem? = s.mem? := by
  cases i with
  | copyScratchpad | writePage => simp at hi
  | crcReset | crcAcc | crcCheck | select | readPage | readPageC | writeScratchpad | wMatch _ | wRead _ | wReadc
  | wWsp _ _ | wCopy _ | wAuth => simp [execEnd, instrEnd]

theorem writePage_memOk (h : s.MemOk) : (writePage s).MemOk := by
  have h1 : (phase1 (pageAddr s.argPidx) s.wdata (setWState .idle s)).2.MemOk := h.congr (by simp)
  simp only [writePage]
  split
  · exact (phase2_memOk (s := setWState .scratchpadStaged _) (pageAddr s.argPidx) h1).congr (by simp [commitStaged])
  · exact h1

theorem execEnd_memOk (i : Instr) (h : s.MemOk) : (execEnd i s).MemOk := by
  by_cases hi : i ∈ [.copyScratchpad, .writePage]
  · simp only [List.mem_cons, List.not_mem_nil, or_false] at hi
    rcases hi with rfl | rfl
    · exact (phase2_memOk s.argAddr h).congr (by simp [execEnd, instrEnd])
    · exact writePage_memOk h
  · exact h.congr (execEnd_mem? hi s)

theorem execEnd_env_none (i : Instr) (h : s.env = none) : (execEnd i s).env = none := by
  by_cases hi : i ∈ [.copyScratchpad, .writePage]
  · simp only [List.mem_cons, List.not_mem_nil, or_false] at hi
    rcases hi with rfl | rfl
    · simpa [execEnd, instrEnd] using phase2_env_none s.argAddr h
    · exact writePage_env_none h
  · exact env_none_of_mem? (execEnd_mem? hi s) h

/-- Where an instruction completes, the environment is inside its definition (R65 to R67). -/
theorem execEnd_inside (h : exec i s = .next t) (ho : s.envOutside = false) : (execEnd i s).envOutside = false := by
  by_cases hc : i ∈ crcOps
  · simp only [crcOps, List.mem_cons, List.not_mem_nil, or_false] at hc
    rcases hc with rfl | rfl | rfl <;> exact ho
  · rw [exec_eq_deliver hc, ← execEnd_of_not_mem_crcOps hc] at h
    exact (deliver_inside h (execEnd_env_none i)).2

/-! ### A whole operation -/

@[simp] theorem selectEnd_busy (s : State) : (selectEnd s).busy = false := by simp only [selectEnd]; split <;> rfl
@[simp] theorem selectEnd_seq (s : State) : (selectEnd s).seq = .idle := by simp only [selectEnd]; split <;> rfl
@[simp] theorem readPageEnd_busy (s : State) : (readPageEnd s).busy = false := by
  simp only [readPageEnd]; split <;> simp
@[simp] theorem readPageEnd_seq (s : State) : (readPageEnd s).seq = .idle := by
  simp only [readPageEnd]; split <;> simp

/-- After a host operation PIOC is idle (R10, R29). -/
theorem execEnd_idle (hi : i ∈ hostOps) (s : State) : (execEnd i s).busy = false ∧ (execEnd i s).seq = .idle := by
  cases i with
  | wMatch _ | wRead _ | wReadc | wWsp _ _ | wCopy _ | wAuth => simp [hostOps] at hi
  | crcReset | crcAcc | crcCheck | select | readPage | readPageC | writeScratchpad | copyScratchpad | writePage =>
    simp [execEnd, instrEnd]

theorem writePage_busPower (h : s.busPower = .standard) : (writePage s).busPower = .standard := by
  have h1 : (phase1 (pageAddr s.argPidx) s.wdata (setWState .idle s)).2.busPower = .standard := by simp [h]
  simp only [writePage]
  split
  · simpa [commitStaged] using phase2_busPower (setWState .scratchpadStaged _) (pageAddr s.argPidx) h1
  · exact h1

/-- The power level comes back to `standard` (R129). -/
theorem execEnd_busPower (i : Instr) (h : s.busPower = .standard) : (execEnd i s).busPower = .standard := by
  by_cases hi : i ∈ [.copyScratchpad, .writePage]
  · simp only [List.mem_cons, List.not_mem_nil, or_false] at hi
    rcases hi with rfl | rfl
    · simpa [execEnd, instrEnd] using phase2_busPower s s.argAddr h
    · exact writePage_busPower h
  · exact (execEnd_conf_busPower hi s).2.trans h

/-- `ScratchpadStaged` is only inside `WRITE_PAGE` (R25). -/
theorem execEnd_not_staged (i : Instr) (h : s.wstate ≠ .scratchpadStaged) : (execEnd i s).wstate ≠ .scratchpadStaged := by
  by_cases hi : i = .writePage
  · subst hi
    rcases writePage_wstate s with hw | hw | hw <;> exact hw ▸ nofun
  · rwa [execEnd_wstate hi]

/-- A whole operation leaves the invariant, with PIOC idle. -/
theorem exec_inv (hi : i ∈ hostOps) (h : exec i s = .next t) (hp : s.busPower = .standard)
    (hw : s.wstate ≠ .scratchpadStaged) (hl : s.tbLen.toNat ≤ 37) (he : s.envFits) : t.Inv := by
  obtain ⟨ho, hm⟩ := envFits_iff.mp he
  obtain ⟨hb, hq⟩ := execEnd_idle hi s
  rw [eq_execEnd_of_next h]
  exact inv_of_parts (controlFits_of_ended hb hq (execEnd_busPower i hp) (execEnd_not_staged i hw))
    (execEnd_tbLen_le hi hl) (execEnd_inside h ho) (execEnd_memOk i hm)

/-! ### The steps -/

/-- The decoder reads only the nine operations from a command byte (R72). -/
theorem mem_hostOps_of_decodeHost {b : Byte} (h : decodeHost b = .ok i) : i ∈ hostOps := by
  unfold decodeHost at h
  split at h
  · cases h
  · split at h
    · split at h <;> cases h
      decide
    · split at h <;> cases h <;> decide

/-- An accepted command byte runs one of the nine operations (R71, R72). -/
theorem exec_of_present {b : Byte} (h : present b s = .next t) : ∃ i ∈ hostOps, exec i (accept b s) = .next t := by
  unfold present at h
  split at h
  · cases h
  · split at h
    · cases h
    · rename_i i hd
      exact ⟨i, mem_hostOps_of_decodeHost hd, h⟩

theorem hostWrite_inv (m : HostMove) (hb : s.busy = false) (h : s.Inv) : (hostWrite m s).Inv := by
  have ⟨hidle, _, _, he⟩ := h
  obtain ⟨⟨-, -, hp⟩, -⟩ := hidle hb
  cases m with
  | hardReset => exact ⟨fun _ => ⟨⟨rfl, rfl, hp⟩, nofun⟩, nofun, Nat.zero_le 37, he⟩
  | provideId _ | writeArgByte _ | writeArgPidx _ | writeArgAddr _ | writeWdata _ | command _ => exact h

/-- A step of an idle PIOC is a move of the outside (R172). -/
theorem idleStep_inv (hb : s.busy = false) (hs : s.Inv) (h : step s = .next t) : t.Inv := by
  have ⟨hidle, _, hl, he⟩ := hs
  obtain ⟨⟨-, -, hp⟩, hw⟩ := hidle hb
  cases hm : s.inbox with
  | nil =>
    rw [step_of_no_move hb hm] at h
    exact Host.Outcome.next.inj h ▸ hs
  | cons m rest =>
    by_cases hc : ∃ b, m = .command b
    · obtain ⟨b, rfl⟩ := hc
      rw [step_of_command hb hm] at h
      obtain ⟨i, hi, h⟩ := exec_of_present h
      exact exec_inv hi h hp hw hl he
    · rw [step_of_move hb hm (not_exists.mp hc)] at h
      exact Host.Outcome.next.inj h ▸ hostWrite_inv m (s := { s with inbox := rest }) hb hs

/-- A step of a busy PIOC begins an operation, or is the work at a control position (R24). -/
theorem busyStep_inv (hb : s.busy = true) (hs : s.Inv) (h : step s = .next t) : t.Inv := by
  obtain ⟨-, hbusy, hl, he⟩ := hs
  obtain ⟨ho, hm⟩ := envFits_iff.mp he
  have hf := hbusy hb
  by_cases hq : s.seq = .idle
  · rw [State.seqFits, hq] at hf
    obtain ⟨hr, hw, hp⟩ := hf
    rw [step_of_accepted hb hq] at h
    obtain ⟨hc, htl, hte⟩ := beginOp_keeps hb hr hw hp h
    exact inv_of_parts hc (htl ▸ hl) (by rwa [State.envOutside, hte]) (hm.congr (by rw [State.mem?, hte, State.mem?]))
  · obtain ⟨calls, hd⟩ := step_eq_deliver_positionEnd hb hq ho
    obtain ⟨rfl, hin⟩ := deliver_inside (hd.symm.trans h) positionEnd_env_none
    exact inv_of_parts (positionEnd_controlFits hb hq hf) (positionEnd_tbLen_le hl) hin (positionEnd_memOk hm)

/-- Settles O44: a step of an idle PIOC, and a step of a busy one. -/
theorem stepKeepsTheInvariant : Obligations.StepKeepsTheInvariant := by
  unfold Obligations.StepKeepsTheInvariant
  intro s t hs h
  cases hb : s.busy with
  | false => exact idleStep_inv hb hs h
  | true => exact busyStep_inv hb hs h

end Sys2Proof.Machine
end

section
/-! PROOFS. What the decoder accepts is an encoding (R75 to R81, R84 to R86), and the bytes of a page address (R41, R83). -/

namespace Sys2Proof

open Sys2Proof.Machine

variable {b : Byte} {l : List Byte} {i : Instr}

/-! ### The decoder, one format after the other -/

/-- A command byte is put together from its three fields (R71). -/
theorem command_toNat (b : Byte) :
    b.toNat = 32 * (b.extractLsb' 5 3).toNat + 16 * (b.getLsbD 4).toNat + (b.extractLsb' 0 4).toNat := by
  have h4 : (b.getLsbD 4).toNat = b.toNat / 16 % 2 := by
    rw [BitVec.getLsbD, Nat.testBit_eq_decide_div_mod_eq]
    rcases Nat.mod_two_eq_zero_or_one (b.toNat / 2 ^ 4) with h | h <;> simp_all
  rw [h4]
  simp only [BitVec.extractLsb'_toNat, Nat.shiftRight_eq_div_pow]
  omega

/-- The command byte of an accepted byte is that byte (R71, R72). -/
theorem encode_of_decodeHost (h : decodeHost b = .ok i) : encode i = [b] ∧ i.format = .host ∧ i.wellFormed = true := by
  have hb := command_toNat b
  have hsame : ∀ c : Byte, c.toNat = b.toNat → [c] = [b] := fun c hc => by rw [BitVec.eq_of_toNat_eq hc]
  unfold decodeHost at h
  split at h
  · cases h
  rename_i hr
  rw [not_not.mp hr] at hb
  split at h
  · rename_i hc
    split at h
    · rename_i ho
      cases h
      exact ⟨hsame _ (by rw [hb, hc, ho]; rfl), rfl, rfl⟩
    · cases h
  · rename_i hc
    rw [Bool.not_eq_true] at hc
    split at h <;> cases h <;> rename_i ho <;> exact ⟨hsame _ (by rw [hb, hc, ho]; rfl), rfl, rfl⟩

theorem encode_of_decodeSelFrame (h : decodeSelFrame l = .ok i) :
    encode i = l ∧ i.format = .wsel ∧ i.wellFormed = true := by
  unfold decodeSelFrame at h
  split at h
  · split at h
    · rename_i hc
      cases h
      exact ⟨by rw [hc]; rfl, rfl, rfl⟩
    · cases h
  · cases h

/-- The payload and the two bytes after it are the 34 bytes that `W.WSP` has after its address (R78). -/
theorem toBytes_append_drop {n : Nat} (h : n ≤ l.length) : (toBytes n l).toList ++ l.drop n = l := by
  rw [toBytes_toList_of_le h, List.take_append_drop]

theorem encode_of_decodeMemFrame (h : decodeMemFrame l = .ok i) :
    encode i = l ∧ i.format = .wmem ∧ i.wellFormed = true := by
  unfold decodeMemFrame at h
  split at h
  · rename_i c al ah rest
    split_ifs at h with hr _ hf hm hw hl hf hc hn
    · cases h
      exact ⟨by simp [encode, hr, not_not.mp hf], rfl, by simpa [Instr.wellFormed] using hm⟩
    · cases h
      have hp := toBytes_append_drop (l := rest) (n := 32) (by omega)
      rw [not_not.mp hf] at hp
      exact ⟨by simp [encode, hw, hp], rfl, rfl⟩
    · cases h
      exact ⟨by simp [encode, hc, hn], rfl, rfl⟩
  · cases h

theorem encode_of_decodeContFrame (h : decodeContFrame l = .ok i) :
    encode i = l ∧ i.format = .wcont ∧ i.wellFormed = true := by
  unfold decodeContFrame at h
  split_ifs at h with _ hf
  cases h
  exact ⟨hf.symm, rfl, rfl⟩

theorem encode_of_decodeAuthFrame (h : decodeAuthFrame l = .ok i) :
    encode i = l ∧ i.format = .wauth ∧ i.wellFormed = true := by
  unfold decodeAuthFrame at h
  split at h
  · split_ifs at h with hc
    cases h
    exact ⟨by rw [hc]; rfl, rfl, rfl⟩
  · cases h

/-- Settles O2: one format after the other. -/
theorem acceptedBytesAreTheEncoding : Obligations.AcceptedBytesAreTheEncoding := by
  unfold Obligations.AcceptedBytesAreTheEncoding
  intro f l i h
  cases f with
  | host =>
    match l, h with
    | [], h => cases h
    | [b], h => exact encode_of_decodeHost h
    | _ :: _ :: _, h => cases h
  | wsel => exact encode_of_decodeSelFrame h
  | wmem => exact encode_of_decodeMemFrame h
  | wcont => exact encode_of_decodeContFrame h
  | wauth => exact encode_of_decodeAuthFrame h

end Sys2Proof

namespace Sys2Proof.Machine

/-! ### The page address (R41, R83) -/

/-- The page address is the index times 32 in 16 bits. -/
theorem pageAddr_toNat (i : Word) : (pageAddr i).toNat = i.toNat * 32 % 65536 := by
  rw [pageAddr, BitVec.toNat_shiftLeft, Nat.shiftLeft_eq]

/-- Every page address is page-aligned. -/
theorem pageAddr_aligned (i : Word) : (pageAddr i).extractLsb' 0 5 = 0 := by
  apply BitVec.eq_of_toNat_eq
  rw [BitVec.extractLsb'_toNat, pageAddr_toNat]
  simp only [Nat.shiftRight_zero, BitVec.ofNat_eq_ofNat, BitVec.toNat_ofNat, Nat.zero_mod]
  omega

theorem lo8_pageAddr (i : Word) : lo8 (pageAddr i) = i.extractLsb' 0 3 ++ (0 : BitVec 5) := by
  apply BitVec.eq_of_toNat_eq
  rw [lo8, BitVec.extractLsb'_toNat, pageAddr_toNat, BitVec.toNat_append, BitVec.extractLsb'_toNat]
  simp only [Nat.shiftRight_zero, BitVec.ofNat_eq_ofNat, BitVec.toNat_ofNat, Nat.zero_mod, Nat.shiftLeft_eq, Nat.or_zero]
  omega

theorem hi8_pageAddr (i : Word) : hi8 (pageAddr i) = i.extractLsb' 3 8 := by
  apply BitVec.eq_of_toNat_eq
  rw [hi8, BitVec.extractLsb'_toNat, pageAddr_toNat, BitVec.extractLsb'_toNat]
  simp only [Nat.shiftRight_eq_div_pow]
  omega

/-- Settles O5: the address by its number, its low bits, and its two bytes. -/
theorem pageAddressLaw : Obligations.PageAddressLaw := by
  unfold Obligations.PageAddressLaw
  refine ⟨fun i => ⟨pageAddr_toNat i, pageAddr_aligned i, fun j hj => ?_, lo8_pageAddr i, hi8_pageAddr i⟩, by decide⟩
  apply BitVec.eq_of_toNat_eq
  rw [pageAddr_toNat, pageAddr_toNat, hj]
  omega

end Sys2Proof.Machine
end

section
/-! PROOFS. What an exchange changes (R50), and that answers which the state fixes come in their order (R49 to R51, R55). -/

namespace Sys2Proof.Machine

variable {s : State}

/-- After `Xchg(n)`, `TB` is the bytes received and the rest of `TB` (R50). -/
theorem exchange_tb_toList (s : State) {n : Nat} (hn : n ≤ 37) :
    (exchange n s).tb.toList = received (s.tb.toList.take n) s ++ s.tb.toList.drop n := by
  rw [exchange_tb, toBytes_toList_of_eq (by simp; omega)]

theorem exchange_sameInputs (n : Nat) (s : State) : s.sameInputs (exchange n s) := by simp [State.sameInputs]

/-- Settles O15: the bytes received are those in the trace and in `TB`; every other register has its frame lemma. -/
theorem exchangeOverwritesInPlace : Obligations.ExchangeOverwritesInPlace := by
  unfold Obligations.ExchangeOverwritesInPlace
  intro s n hn
  exact ⟨received (s.tb.toList.take n) s, by simp [hn], exchange_trace s n, exchange_tb_toList s hn, exchange_sameInputs n s,
    by simp⟩

/-! ### Answers that the state fixes -/

theorem takePresence_script {o : Oracle} {p : Bool} {ps : List Bool} (h : o.presence = p :: ps) :
    o.takePresence = (p, { o with presence := ps }) := by
  simp [Oracle.takePresence, h]

theorem takeConfirm_script {o : Oracle} {c : Byte} {cs : List Byte} (h : o.confirm = c :: cs) :
    o.takeConfirm = (c, { o with confirm := cs }) := by
  simp [Oracle.takeConfirm, h]

theorem readByte_of_none (he : s.env = none) :
    (readByte s).conf = s.oracle.takeConfirm.1 ∧ (readByte s).oracle = s.oracle.takeConfirm.2 := by
  simp [readByte, he]

/-- Settles O16: without an environment each primitive takes from its list of answers. -/
theorem oracleAnswersInOrder : Obligations.OracleAnswersInOrder := by
  unfold Obligations.OracleAnswersInOrder
  intro s p ps r rest c cs he hp hr hc hl
  have htake : (s.tb.toList.take r.length).length = r.length := by simp [hl]
  have hbytes : s.oracle.takeBytes (s.tb.toList.take r.length).length = (r, { s.oracle with rx := rest }) := by
    rw [htake, takeBytes_script r rest s.oracle hr]
  obtain ⟨hconf, horacle⟩ := readByte_of_none he
  refine ⟨?_, ?_, ?_, ?_, ?_, ?_⟩
  · rw [busReset_fst_of_none s he, takePresence_script hp]
  · rw [busReset_oracle_of_none s he, takePresence_script hp]
  · rw [exchange_tb_toList s hl, received_of_none s _ he, hbytes]
  · rw [exchange_oracle_of_none s _ he, hbytes]
  · rw [hconf, takeConfirm_script hc]
  · rw [horacle, takeConfirm_script hc]

end Sys2Proof.Machine
end

section
/-! PROOFS. Which call never returns decides how far an instruction comes (R57, R166, U12): its calls and its end are the
same for every `hangAt` (Laws/Hang.lean), and the calls are numbered by the events before them (Laws/Calls.lean). -/

namespace Sys2Proof.Machine

variable {i : Instr} {s t : State} {calls : List State} {tr' : List Event} {n : Nat}

theorem withHang_self (s : State) : s.withHang s.hangAt = s := rfl

theorem execEnd_hangAt (i : Instr) (s : State) : (execEnd i s).hangAt = s.hangAt := by
  obtain ⟨-, -, -, -, -, -, -, h, -⟩ := execEnd_sameInputs i s
  exact h

theorem execEnd_withHang (h : Option Nat) (i : Instr) (s : State) :
    execEnd i (s.withHang h) = (execEnd i s).withHang h := by
  by_cases hc : i ∈ crcOps
  · simp only [crcOps, List.mem_cons, List.not_mem_nil, or_false] at hc
    rcases hc with rfl | rfl | rfl <;> rfl
  · simp only [execEnd_of_not_mem_crcOps hc, instrEnd_withHang]

/-- The end of an instruction, told from its end in front of a transport whose every call returns. -/
theorem execEnd_eq_of_bounded (i : Instr) (s : State) :
    execEnd i s = { execEnd i (s.withHang none) with hangAt := s.hangAt } := by
  calc execEnd i s = (execEnd i s).withHang (execEnd i s).hangAt := (withHang_self _).symm
    _ = ((execEnd i s).withHang none).withHang s.hangAt := by rw [execEnd_hangAt]; rfl
    _ = (execEnd i (s.withHang none)).withHang s.hangAt := by rw [execEnd_withHang]

theorem execEnd_withHang_trace (h : Option Nat) (i : Instr) (s : State) :
    (execEnd i (s.withHang h)).trace = (execEnd i s).trace := by
  rw [execEnd_withHang, withHang_trace]

/-- Of calls that bring the history from one length to another, the one with the number `hangAt` hangs, and it has made
exactly the events before it. -/
theorem hungCall_of_callsFrom (h : CallsFrom s s.trace calls tr') (hn : s.hangAt = some n) (hlo : s.trace.length ≤ n)
    (hhi : n < tr'.length) : ∃ p, hungCall s calls = some p ∧ p.trace = tr'.take n := by
  cases hc : hungCall s calls with
  | none =>
    obtain ⟨p, hp, hl⟩ := h.exists_mem hlo hhi
    exact absurd (hn.trans (by rw [hl])) (hungCall_none.mp hc p hp)
  | some p =>
    obtain ⟨hp, hl⟩ := hungCall_some hc
    obtain ⟨-, -, hpre, -⟩ := h.of_mem hp
    obtain rfl : n = p.trace.length := Option.some.inj (hn.symm.trans hl)
    exact ⟨p, rfl, List.prefix_iff_eq_take.mp hpre⟩

/-- No call hangs where `hangAt` is the number of none of them. -/
theorem hungCall_none_of_callsFrom (h : CallsFrom s s.trace calls tr')
    (hn : ∀ n, s.hangAt = some n → n < s.trace.length ∨ tr'.length ≤ n) : hungCall s calls = none := by
  refine hungCall_none.mpr fun p hp hl => ?_
  obtain ⟨-, hlo, -, hhi⟩ := h.of_mem hp
  have := hlo.length_le
  rcases hn _ hl with h' | h' <;> omega

/-- Where an instruction completes on a bounded transport, there is no environment, or it is inside its definition. -/
theorem instrEnd_inside_of_bounded (hc : i ∉ crcOps) (h : exec i (s.withHang none) = .next t) :
    s.env = none ∨ (instrEnd i s).envOutside = false := by
  rw [exec_eq_deliver hc, instrEnd_withHang] at h
  exact (deliver_next h).2.2

theorem unlessRefused_of_env {p : State} (h : s.env = none ∨ p.envOutside = false)
    (o : Host.Outcome State Fault Refusal) : unlessRefused s p o = o :=
  h.elim (unlessRefused_of_none · o) (unlessRefused_of_inside · o)

/-- Settles O58: the call that never returns is one of the instruction's own, or none of them. -/
theorem onlyTheHangingCallStopsAnInstruction : Obligations.OnlyTheHangingCallStopsAnInstruction := by
  unfold Obligations.OnlyTheHangingCallStopsAnInstruction
  intro i s t h
  have ht : t = execEnd i (s.withHang none) := eq_execEnd_of_next h
  have htr : t.trace = (execEnd i s).trace := by rw [ht, execEnd_withHang_trace]
  have hend : { t with hangAt := s.hangAt } = execEnd i s := by rw [ht, ← execEnd_eq_of_bounded]
  rw [hend, htr]
  by_cases hc : i ∈ crcOps
  · refine ⟨fun n _ hlo hhi => ?_, fun _ => exec_of_mem_crcOps hc s⟩
    obtain ⟨-, -, -, -, htrace⟩ := execEnd_of_crcOps hc s
    rw [htrace] at hhi
    omega
  · have hin := instrEnd_inside_of_bounded hc h
    rw [execEnd_of_not_mem_crcOps hc, exec_eq_deliver hc]
    refine ⟨fun n hn hlo hhi => ?_, fun hn => ?_⟩
    · obtain ⟨p, hp, hpt⟩ := hungCall_of_callsFrom (instrCalls_spec i s) hn hlo hhi
      have hpin := hin.imp_right fun ho => instrCalls_inside ho p (hungCall_some hp).1
      exact ⟨p, (deliver_hung hp).trans (unlessRefused_of_env hpin _), hpt⟩
    · rw [deliver, hungCall_none_of_callsFrom (instrCalls_spec i s) hn]
      exact unlessRefused_of_env hin _

end Sys2Proof.Machine
end

section
/-! PROOFS. What the reference environment answers to each of PIOC's frames, and the device after it (R64 to R68). -/

namespace Sys2Proof.Machine

/-! ### The two CRC bytes of an answer (R44, R99) -/

/-- What the update adds to the shifted accumulator: a function of `c` alone (R90). -/
def crcTerm (c : Byte) : Word := (if parityOdd c then polyTerm else 0) ^^^ c.setWidth 16 <<< 6 ^^^ c.setWidth 16 <<< 7

theorem crc16Update_eq_xor (a : Word) (b : Byte) : crc16Update a b = (a >>> 8) ^^^ crcTerm (b ^^^ lo8 a) := by
  simp only [crc16Update, crcTerm]
  split <;> simp [BitVec.xor_assoc]

theorem lo8_xor (a b : Word) : lo8 (a ^^^ b) = lo8 a ^^^ lo8 b := by ext; simp [lo8]
theorem hi8_xor (a b : Word) : hi8 (a ^^^ b) = hi8 a ^^^ hi8 b := by ext; simp [hi8]
theorem lo8_shiftRight (a : Word) : lo8 (a >>> 8) = hi8 a := by ext; simp [lo8, hi8]
theorem shiftRight_shiftRight_eq_zero (a : Word) : a >>> 8 >>> 8 = 0 := by
  apply BitVec.eq_of_toNat_eq
  have := a.isLt
  simp only [BitVec.toNat_ushiftRight, Nat.shiftRight_eq_div_pow, BitVec.ofNat_eq_ofNat, BitVec.toNat_ofNat, Nat.zero_mod]
  omega

/-- A byte that cancels the accumulator's low byte but for `d` adds the term of `d` alone. -/
theorem crc16Update_of_xor (a : Word) (d : Byte) : crc16Update a (lo8 a ^^^ d) = (a >>> 8) ^^^ crcTerm d := by
  rw [crc16Update_eq_xor, BitVec.xor_comm (lo8 a), BitVec.xor_assoc, BitVec.xor_self, BitVec.xor_zero]

/-- The complement of the accumulator, low byte first, folds it to the residue, whatever it was (R44, R99). -/
theorem crc16Fold_crcReply (a : Word) : crc16Fold a (crcReply a) = 0xB001 := by
  have h0 : crc16Update a (lo8 (a ^^^ 0xFFFF)) = (a >>> 8) ^^^ 0x4040 := by
    rw [lo8_xor]
    exact crc16Update_of_xor a 0xFF
  have hb : hi8 (a ^^^ 0xFFFF) = lo8 ((a >>> 8) ^^^ 0x4040) ^^^ 0xBF := by
    rw [hi8_xor, lo8_xor, lo8_shiftRight, BitVec.xor_assoc]
    rfl
  calc crc16Fold a (crcReply a)
      = crc16Update ((a >>> 8) ^^^ 0x4040) (lo8 ((a >>> 8) ^^^ 0x4040) ^^^ 0xBF) := by
        rw [← hb, ← h0]; rfl
    _ = (((a >>> 8) ^^^ 0x4040) >>> 8) ^^^ crcTerm 0xBF := crc16Update_of_xor _ _
    _ = (0x4040 >>> 8) ^^^ crcTerm 0xBF := by
        rw [BitVec.ushiftRight_xor_distrib, shiftRight_shiftRight_eq_zero]; simp
    _ = 0xB001 := by decide

/-- A list with its two CRC bytes (R44, R65). -/
def withCrc (l : List Byte) : List Byte := l ++ crcReply (crc16Fold 0 l)

theorem crc16Fold_withCrc (l : List Byte) : crc16Fold 0 (withCrc l) = 0xB001 := by
  rw [withCrc, crc16Fold_append, crc16Fold_crcReply]

/-! ### The frames as the device reads them -/

theorem decode_encode_wMatch (v : Bytes 8) : decode .wsel (encode (.wMatch v)) = .ok (.wMatch v) := by
  obtain ⟨⟨l⟩, hl⟩ := v
  match l, hl with
  | [_, _, _, _, _, _, _, _], _ => rfl

theorem decode_encode_wReadc : decode .wcont (encode .wReadc) = .ok .wReadc := by
  simp [decode, encode, decodeContFrame]

/-- The 32 bytes of the device's memory from address `a` on. -/
def Env.page (a : Nat) (e : Env) : List Byte := (List.range 32).map fun k => e.mem.read (a + k)

@[simp] theorem Env.page_length (a : Nat) (e : Env) : (e.page a).length = 32 := by simp [Env.page]

theorem Env.readBlock_eq_page (a : Nat) (e : Env) : e.mem.readBlock a 32 = e.page a := by
  apply List.ext_getElem (by simp)
  intro k h1 h2
  rw [Memory.readBlock_getElem]
  simp [Env.page]

/-! ### What the device answers, by its phase -/

variable {e e' : Env} {level : PowerLevel} {a : Nat}

/-- With nobody selected every frame comes back (R64). -/
theorem Env.exchange_unselected (hp : e.phase = .unselected) (tx : List Byte) : e.exchange tx level = (some tx, e) := by
  simp only [Env.exchange, hp]

/-- After a bus reset, a match frame selects or deselects (R64). -/
theorem Env.exchange_wMatch (hp : e.phase = .rom) (v : Bytes 8) :
    e.exchange (encode (.wMatch v)) level =
      (some (encode (.wMatch v)), { e with phase := if v = e.devId then .selected else .unselected }) := by
  simp only [Env.exchange, hp, Env.matchFrame, decode_encode_wMatch]

theorem Env.exchange_wRead_eq (hp : e.phase = .selected) (A : Word) :
    e.exchange (encode (.wRead A)) level = e.readFrame (encode (.wRead A)) A := by
  simp only [Env.exchange, hp, Env.selectedFrame, deviceFrame_wRead]

/-- A read inside the device (R65). -/
theorem Env.exchange_wRead (hp : e.phase = .selected) {A : Word} (hr : A.toNat + 31 < e.nPages * 32) :
    e.exchange (encode (.wRead A)) level =
      (some (withCrc ([cmdRead, lo8 A, hi8 A] ++ e.page A.toNat)), { e with phase := .reading (A.toNat + 32) }) := by
  rw [Env.exchange_wRead_eq hp, Env.readFrame, Env.inRange, decide_eq_true hr, if_pos rfl, Env.readBlock_eq_page]
  rfl

/-- A read past the last page (R65). -/
theorem Env.exchange_wRead_outside (hp : e.phase = .selected) {A : Word} (hr : e.nPages * 32 ≤ A.toNat + 31) :
    (e.exchange (encode (.wRead A)) level).2.outside = true := by
  rw [Env.exchange_wRead_eq hp, Env.readFrame, Env.inRange, decide_eq_false (by omega)]
  rfl

theorem Env.exchange_wReadc_eq (hp : e.phase = .reading a) :
    e.exchange (encode .wReadc) level = e.contFrame (encode .wReadc) a := by
  simp only [Env.exchange, hp]

/-- A continued read inside the device (R66). -/
theorem Env.exchange_wReadc (hp : e.phase = .reading a) (hr : a + 31 < e.nPages * 32) :
    e.exchange (encode .wReadc) level = (some (withCrc (e.page a)), { e with phase := .reading (a + 32) }) := by
  rw [Env.exchange_wReadc_eq hp, Env.contFrame, decode_encode_wReadc]
  simp only [Env.inRange, decide_eq_true hr, if_true, Env.readBlock_eq_page]
  rfl

/-- A continued read past the last page (R66). -/
theorem Env.exchange_wReadc_outside (hp : e.phase = .reading a) (hr : e.nPages * 32 ≤ a + 31) :
    (e.exchange (encode .wReadc) level).2.outside = true := by
  rw [Env.exchange_wReadc_eq hp, Env.contFrame, decode_encode_wReadc]
  simp only [Env.inRange, decide_eq_false (show ¬ a + 31 < e.nPages * 32 by omega)]
  rfl

/-- A continued read after a bus reset or a selection has no answer of its own (U5). -/
theorem Env.exchange_wReadc_stray (hp : e.phase = .rom ∨ e.phase = .selected) :
    e.exchange (encode .wReadc) level = (none, { e with phase := .stray }) := by
  rcases hp with hp | hp
  · simp only [Env.exchange, hp]
    rfl
  · have hne : encode .wReadc ≠ [authByte] := by decide
    simp only [Env.exchange, hp, Env.selectedFrame, deviceFrame_wReadc, if_neg hne]
    rfl

theorem Env.exchange_wWsp_eq (hp : e.phase = .selected) (A : Word) (d : Bytes 32) :
    e.exchange (encode (.wWsp A d)) level = e.scratchFrame (encode (.wWsp A d)) A d := by
  simp only [Env.exchange, hp, Env.selectedFrame, deviceFrame_wWsp]

/-- A scratchpad write to a page-aligned address (R67). -/
theorem Env.exchange_wWsp (hp : e.phase = .selected) {A : Word} (hA : A.extractLsb' 0 5 = 0) (d : Bytes 32) :
    e.exchange (encode (.wWsp A d)) level =
      (some (withCrc ([cmdWsp, lo8 A, hi8 A] ++ d.toList)),
        { e with scratch := some { addr := A, data := d }, phase := .unselected }) := by
  have ht : (encode (.wWsp A d)).take 35 = [cmdWsp, lo8 A, hi8 A] ++ d.toList := by
    simp [encode]
  rw [Env.exchange_wWsp_eq hp, Env.scratchFrame, if_pos hA, ht]
  rfl

/-- A scratchpad write to a misaligned address (R67). -/
theorem Env.exchange_wWsp_outside (hp : e.phase = .selected) {A : Word} (hA : A.extractLsb' 0 5 ≠ 0) (d : Bytes 32) :
    (e.exchange (encode (.wWsp A d)) level).2.outside = true := by
  rw [Env.exchange_wWsp_eq hp, Env.scratchFrame, if_neg hA]
  rfl

/-- The copy command (R68). -/
theorem Env.exchange_wCopy (hp : e.phase = .selected) (A : Word) :
    e.exchange (encode (.wCopy A)) level = (some (encode (.wCopy A)), { e with copyAddr := some A }) := by
  simp only [Env.exchange, hp, Env.selectedFrame, deviceFrame_wCopy]

/-- The authorization byte (R68). -/
theorem Env.exchange_wAuth (hp : e.phase = .selected) :
    e.exchange (encode .wAuth) level =
      (some (encode .wAuth), { e with armed := (e.authorised level).or e.armed, copyAddr := none }) := by
  have ht : encode .wAuth = [authByte] := rfl
  simp only [Env.exchange, hp, Env.selectedFrame, deviceFrame_wAuth, if_pos ht]

/-- Which of PIOC's frames the device refuses (R65 to R67). -/
theorem Env.exchange_encode_leaves {i : Instr} (hf : i.format ≠ .host) (hi : e.outside = false)
    (ho : (e.exchange (encode i) level).2.outside = true) :
    (∃ A : Word, i = .wRead A ∧ e.nPages * 32 ≤ A.toNat + 31) ∨
      (i = .wReadc ∧ ∃ a, e.phase = .reading a ∧ e.nPages * 32 ≤ a + 31) ∨
      (∃ (A : Word) (d : Bytes 32), i = .wWsp A d ∧ A.extractLsb' 0 5 ≠ 0) := by
  have hframe : ∀ {j}, deviceFrame (encode i) = some j → i = j := by
    intro j hj
    cases i with
    | wRead A => exact Option.some.inj ((deviceFrame_wRead A).symm.trans hj)
    | wWsp A d => exact Option.some.inj ((deviceFrame_wWsp A d).symm.trans hj)
    | wCopy A => exact Option.some.inj ((deviceFrame_wCopy A).symm.trans hj)
    | wMatch v => exact absurd ((deviceFrame_wMatch v).symm.trans hj) nofun
    | wReadc => exact absurd (deviceFrame_wReadc.symm.trans hj) nofun
    | wAuth => exact absurd (deviceFrame_wAuth.symm.trans hj) nofun
    | crcReset | crcAcc | crcCheck | select | readPage | readPageC | writeScratchpad | copyScratchpad | writePage =>
      exact absurd rfl hf
  rcases Env.exchange_leaves hi ho with ⟨-, A, hd, hr⟩ | ⟨-, A, d, hd, hA⟩ | ⟨hd, hr⟩
  · exact .inl ⟨A, hframe hd, hr⟩
  · exact .inr (.inr ⟨A, d, hframe hd, hA⟩)
  · refine .inr (.inl ⟨?_, hr⟩)
    have hl := length_of_decode_wcont hd
    cases i with
    | wReadc => rfl
    | wMatch _ | wRead _ | wWsp _ _ | wCopy _ | wAuth => simp at hl
    | crcReset | crcAcc | crcCheck | select | readPage | readPageC | writeScratchpad | copyScratchpad | writePage =>
      exact absurd rfl hf

end Sys2Proof.Machine
end

section
/-! PROOFS. The reference environment behind PIOC's operations (R64 to R69): a frame's outcome, the device after a selection,
the two reads, and what the environment refuses. -/

namespace Sys2Proof.Machine

variable {s t : State} {e e' : Env} {i : Instr} {a : Nat} {rx : List Byte}

/-! ### Delivery with a bounded transport -/

theorem envOutside_of_env (h : t.env = some e) : t.envOutside = e.outside := by simp [State.envOutside, h]

/-- Where every call returns and the environment is inside its definition at the end, an instruction completes. -/
theorem exec_of_inside (hc : i ∉ crcOps) (hb : s.bounded = true) (ht : (instrEnd i s).env = some e)
    (ho : e.outside = false) : exec i s = .next (instrEnd i s) := by
  rw [exec_eq_deliver hc]
  exact deliver_of_inside (hungCall_of_bounded hb) ((envOutside_of_env ht).trans ho)

/-- Where the environment is outside its definition at the end, the instruction is refused. -/
theorem exec_of_outside (hc : i ∉ crcOps) (hb : s.bounded = true) (he : s.env = some e)
    (ht : (instrEnd i s).env = some e') (ho : e'.outside = true) : exec i s = .refused .environmentUndefined := by
  rw [exec_eq_deliver hc]
  exact deliver_of_outside (hungCall_of_bounded hb) he ((envOutside_of_env ht).trans ho)

/-! ### A frame alone -/

/-- What a frame does to the device, and its event (R50, R64 to R68). -/
theorem instrEnd_env_of_frame (hf : i.format ≠ .host) (he : s.env = some e) :
    (instrEnd i s).env = some (e.exchange (encode i) s.busPower).2 ∧
      (instrEnd i s).trace = s.trace ++ [.xch (encode i) (received (encode i) s)] := by
  cases i with
  | wMatch v => exact frameMatch_env v he
  | wRead A => exact frameRead_env A he
  | wReadc => exact frameReadc_env he
  | wWsp A d => exact frameWsp_env A d he
  | wCopy A => exact frameCopy_env A he
  | wAuth => exact frameAuth_env he
  | crcReset | crcAcc | crcCheck | select | readPage | readPageC | writeScratchpad | copyScratchpad | writePage =>
    exact absurd rfl hf

theorem received_of_answer (tx : List Byte) (he : s.env = some e) (hx : (e.exchange tx s.busPower).1 = some rx) :
    received tx s = rx := by
  rw [received_of_some s tx he, hx]; rfl

/-- A frame that the device answers completes, with the answer in the trace. -/
theorem exec_frame_of_answer (hf : i.format ≠ .host) (hb : s.bounded = true) (he : s.env = some e)
    (hx : e.exchange (encode i) s.busPower = (some rx, e')) (ho : e'.outside = false) :
    ∃ t, exec i s = .next t ∧ t.trace = s.trace ++ [.xch (encode i) rx] ∧ t.env = some e' := by
  obtain ⟨henv, htr⟩ := instrEnd_env_of_frame hf he
  rw [hx] at henv
  rw [received_of_answer _ he (by rw [hx])] at htr
  exact ⟨instrEnd i s, exec_of_inside (not_mem_crcOps_of_frame hf) hb henv ho, htr, henv⟩

/-- Settles O55: each frame is answered as the device's exchange says. -/
theorem referenceEnvironmentAnswersFrames : Obligations.ReferenceEnvironmentAnswersFrames := by
  unfold Obligations.ReferenceEnvironmentAnswersFrames
  intro s e hb he ho
  refine ⟨fun v hp => ?_, fun A hp hr => ?_, fun a hp hr => ?_, fun A d hp hA => ?_⟩
  · exact exec_frame_of_answer nofun hb he (Env.exchange_wMatch hp v) ho
  · exact exec_frame_of_answer nofun hb he (Env.exchange_wRead hp hr) ho
  · exact exec_frame_of_answer nofun hb he (Env.exchange_wReadc hp hr) ho
  · exact exec_frame_of_answer nofun hb he (Env.exchange_wWsp hp hA d) ho

/-! ### Selection -/

/-- The device after a bus reset and a match frame with `id` (R64). -/
def Env.select (id : Bytes 8) (e : Env) : Env :=
  { e.busReset with phase := if e.present then (if id = e.devId then .selected else .unselected) else .unselected }

@[simp] theorem Env.select_nPages (id : Bytes 8) (e : Env) : (e.select id).nPages = e.nPages := rfl

theorem Env.select_phase_of_match {id : Bytes 8} (hp : e.present = true) (hid : e.devId = id) :
    (e.select id).phase = .selected := by simp [Env.select, hp, hid]

/-- After a selection the device is selected or not, and nothing else. -/
theorem Env.select_phase (id : Bytes 8) (e : Env) :
    (e.select id).phase = .selected ∨ (e.select id).phase = .unselected := by
  simp only [Env.select]
  split
  · split
    · exact .inl rfl
    · exact .inr rfl
  · exact .inr rfl

theorem probe_env (s : State) : (probe s).2.env = s.env.map Env.busReset := by simp [probe, busReset_env]

/-- A selection finds the device that is present, and selects it where `ID` is its identifier (R64, R105). -/
theorem select_env (he : s.env = some e) : (select s).1 = e.present ∧ (select s).2.env = some (e.select s.id) := by
  have hfst : (probe s).1 = e.present := by rw [probe_fst, busReset_fst_of_some s he]
  have henv : (probe s).2.env = some e.busReset := by rw [probe_env, he]; rfl
  refine ⟨hfst, ?_⟩
  cases hp : e.present with
  | false =>
    have hphase : e.busReset.phase = .unselected := by simp [Env.busReset, hp]
    rw [select_of_absent s (hfst.trans hp), henv, Env.select, if_neg (by simp [hp]), ← hphase]
  | true =>
    have hrom : e.busReset.phase = .rom := by simp [Env.busReset, hp]
    rw [select_of_present s (hfst.trans hp), (frameMatch_env s.id henv).1, Env.exchange_wMatch hrom, Env.select, if_pos hp]
    rfl

/-! ### The ends of the operations that select, with an environment -/

theorem selectEnd_env (he : s.env = some e) : (selectEnd s).env = some (e.select s.id) := by
  obtain ⟨-, henv⟩ := select_env he
  simp only [selectEnd]
  split <;> exact henv

/-- The device after `READ_PAGE` (R65, R110). -/
theorem readPageEnd_env (he : s.env = some e) : (readPageEnd s).env = some
    (if e.present = true then ((e.select s.id).exchange (encode (.wRead (pageAddr s.argPidx))) s.busPower).2
      else e.select s.id) := by
  obtain ⟨hfst, henv⟩ := select_env (s := clearRvalid s) he
  simp only [readPageEnd, hfst]
  split
  · have hr := (frameRead_env (s := enterRead (select (clearRvalid s)).2) (pageAddr s.argPidx) henv).1
    simpa using hr
  · exact henv

/-- The device after Phase 1 (R67, R120). -/
theorem phase1_env (A : Word) (d : Bytes 32) (he : s.env = some e) : (phase1 A d s).2.env = some
    (if e.present = true then ((e.select s.id).exchange (encode (.wWsp A d)) s.busPower).2 else e.select s.id) := by
  obtain ⟨hfst, henv⟩ := select_env he
  simp only [phase1, hfst]
  split
  · have hr := (frameWsp_env (s := enterScratch (select s).2) A d henv).1
    simpa using hr
  · exact henv

/-! ### Reads (R65, R66) -/

/-- A read's success, with the 32 bytes of a page (R110, R111). -/
structure State.returnsPage (t : State) (page : List Byte) : Prop where
  status : t.status = .ok
  rvalid : t.rvalid = true
  rdata : t.rdata.toList = page

/-- What the end of a read gives where the received bytes fold to the residue (R110, R111). -/
theorem finishRead_returnsPage {k : Nat} {page rest : List Byte} (hacc : s.acc = 0xB001)
    (htb : s.tb.toList.drop k = page ++ rest) (hl : page.length = 32) : (finishRead k s).returnsPage page := by
  rw [finishRead_of_valid s k hacc, htb, List.take_left' hl]
  exact ⟨rfl, rfl, toBytes_toList_of_eq hl⟩

/-- The bytes that a frame's exchange leaves in `TB` are those in its event. -/
theorem answer_of_trace {tr : List Event} {tx rx rx' : List Byte} {T : List Event} (h : T = tr ++ [.xch tx rx])
    (h' : T = tr ++ [.xch tx rx']) : rx = rx' := by
  have := List.append_cancel_left (h.symm.trans h')
  simpa using this

/-- `W.READ` with the answer of the device: the bytes in `TB`, and what they fold to (R65, R76). -/
theorem frameRead_of_answer {A : Word} (he : s.env = some e) (hacc : s.acc = 0) {page : List Byte}
    (hx : (e.exchange (encode (.wRead A)) s.busPower).1 = some (withCrc ([cmdRead, lo8 A, hi8 A] ++ page))) :
    (∃ crc, (frameRead A s).tb.toList.drop 3 = page ++ crc) ∧ (frameRead A s).acc = 0xB001 := by
  obtain ⟨rx, -, htr, htb, hfold⟩ := frameRead_spec s A
  obtain rfl : rx = withCrc ([cmdRead, lo8 A, hi8 A] ++ page) :=
    (answer_of_trace htr (frameRead_env A he).2).trans (received_of_answer _ he hx)
  refine ⟨⟨_, by rw [htb]; rfl⟩, ?_⟩
  rw [hfold, hacc, ← crc16Fold_append]
  exact crc16Fold_withCrc ([cmdRead, lo8 A, hi8 A] ++ page)

/-- `W.READC` with the answer of the device (R66, R77). -/
theorem frameReadc_of_answer (he : s.env = some e) (hacc : s.acc = 0) {rx : List Byte}
    (hx : (e.exchange (encode .wReadc) s.busPower).1.getD (s.oracle.takeBytes 34).1 = rx) :
    (frameReadc s).tb.toList = rx ++ s.tb.toList.drop 34 ∧ (frameReadc s).acc = crc16Fold 0 rx ∧
      (frameReadc s).trace = s.trace ++ [.xch (List.replicate 34 0xFF) rx] := by
  obtain ⟨rx', -, htr, htb, hfold⟩ := frameReadc_spec s
  obtain rfl : rx' = rx := by
    rw [answer_of_trace htr (frameReadc_env he).2, received_of_some s _ he, encode_wReadc_length, hx]
  exact ⟨htb, by rw [hfold, hacc], htr⟩

/-- The address of a page that the device has does not wrap around (R8, R41). -/
theorem State.deviceReady.pageAddr_toNat (h : s.deviceReady e) (hp : s.argPidx.toNat < e.nPages) :
    (pageAddr s.argPidx).toNat = s.argPidx.toNat * 32 := by
  obtain ⟨-, -, -, -, -, hn⟩ := h
  rw [Machine.pageAddr_toNat, Nat.mod_eq_of_lt (by omega)]

/-- The premises of R69 after a selection: the device found is selected. -/
theorem State.deviceReady.selected (h : s.deviceReady e) :
    e.present = true ∧ (e.select s.id).phase = .selected := by
  obtain ⟨-, -, hp, -, hid, -⟩ := h
  exact ⟨hp, Env.select_phase_of_match hp hid⟩

/-- `READ_PAGE` of a page inside the device (R65, R110): it completes, returns the page, and the device goes on to `Reading`. -/
theorem readPage_inside (h : s.deviceReady e) (hr : (pageAddr s.argPidx).toNat + 31 < e.nPages * 32) :
    exec .readPage s = .next (readPageEnd s) ∧ (readPageEnd s).returnsPage (e.page (pageAddr s.argPidx).toNat) ∧
      (readPageEnd s).env = some { e.select s.id with phase := .reading ((pageAddr s.argPidx).toNat + 32) } := by
  obtain ⟨hpres, hsel⟩ := h.selected
  obtain ⟨hb, he, -, ho, -, -⟩ := h
  obtain ⟨hfst, henv⟩ := select_env (s := clearRvalid s) he
  have hx := Env.exchange_wRead (level := s.busPower) hsel (A := pageAddr s.argPidx) hr
  have hend := readPageEnd_env he
  rw [if_pos hpres, hx] at hend
  refine ⟨exec_of_inside (by decide) hb hend ho, ?_, hend⟩
  obtain ⟨⟨crc, htb⟩, hacc⟩ := frameRead_of_answer (s := enterRead (select (clearRvalid s)).2) (A := pageAddr s.argPidx)
    henv rfl (by simpa using congrArg Prod.fst hx)
  rw [readPageEnd, hfst, if_pos hpres, select_argPidx, clearRvalid_argPidx]
  exact finishRead_returnsPage hacc htb (by simp)

/-- The device after `READ_PAGE.C` (R66, R111). -/
theorem readPageCEnd_env (he : s.env = some e) :
    (instrEnd .readPageC s).env = some (e.exchange (encode .wReadc) s.busPower).2 := by
  have h := (frameReadc_env (s := enterRead (clearRvalid s)) he).1
  simpa [instrEnd] using h

/-- What `READ_PAGE.C` does with what the device answers, or the oracle where the device has no answer (R66, R111, U5). -/
theorem readPageC_of_answer {rx : List Byte} (hb : s.bounded = true) (he : s.env = some e)
    (hx : (e.exchange (encode .wReadc) s.busPower).1.getD (s.oracle.takeBytes 34).1 = rx)
    (ho : (e.exchange (encode .wReadc) s.busPower).2.outside = false) :
    ∃ u, exec .readPageC s = .next (finishRead 0 u) ∧ u.tb.toList = rx ++ s.tb.toList.drop 34 ∧ u.acc = crc16Fold 0 rx ∧
      u.trace = s.trace ++ [.xch (List.replicate 34 0xFF) rx] ∧
      u.env = some (e.exchange (encode .wReadc) s.busPower).2 := by
  have hend := readPageCEnd_env he
  obtain ⟨htb, hacc, htr⟩ := frameReadc_of_answer (s := enterRead (clearRvalid s)) he rfl hx
  exact ⟨frameReadc (enterRead (clearRvalid s)), exec_of_inside (by decide) hb hend ho, htb, hacc, htr,
    by simpa [instrEnd] using hend⟩

/-- `READ_PAGE.C` in a read sequence, inside the device (R66, R111). -/
theorem readPageC_inside (hb : s.bounded = true) (he : s.env = some e) (ho : e.outside = false) (hp : e.phase = .reading a)
    (hr : a + 31 < e.nPages * 32) : ∃ t, exec .readPageC s = .next t ∧ t.returnsPage (e.page a) := by
  have hx := Env.exchange_wReadc (level := s.busPower) hp hr
  obtain ⟨u, hu, htb, hacc, -, -⟩ :=
    readPageC_of_answer (rx := withCrc (e.page a)) hb he (by rw [hx]; rfl) (by rw [hx]; exact ho)
  rw [withCrc, List.append_assoc] at htb
  exact ⟨_, hu, finishRead_returnsPage (hacc.trans (crc16Fold_withCrc _)) htb (by simp)⟩

/-- `READ_PAGE.C` in a read sequence, past the last page (R66). -/
theorem readPageC_outside (hb : s.bounded = true) (he : s.env = some e) (hp : e.phase = .reading a)
    (hr : e.nPages * 32 ≤ a + 31) : exec .readPageC s = .refused .environmentUndefined :=
  exec_of_outside (by decide) hb he (readPageCEnd_env he) (Env.exchange_wReadc_outside hp hr)

/-- Settles O46: R69 (1). -/
theorem referenceReadReturnsThePage : Obligations.ReferenceReadReturnsThePage := by
  unfold Obligations.ReferenceReadReturnsThePage
  intro s e h hp
  have hA := h.pageAddr_toNat hp
  obtain ⟨hex, hpage, henv⟩ := readPage_inside h (by omega)
  exact ⟨_, _, hex, hpage.status, hpage.rvalid, henv, rfl, by rw [hpage.rdata, hA]; rfl⟩

theorem bounded_congr (h : t.hangAt = s.hangAt) : t.bounded = s.bounded := by simp only [State.bounded, h]

/-- Settles O48: R69 (3). `READ_PAGE` leaves the device at the next page. -/
theorem referenceContinuedReadReturnsTheNextPage : Obligations.ReferenceContinuedReadReturnsTheNextPage := by
  unfold Obligations.ReferenceContinuedReadReturnsTheNextPage
  intro s e h hp
  have ⟨hb, _, _, ho, _, _⟩ := h
  have hA := h.pageAddr_toNat (by omega)
  obtain ⟨hex, -, henv⟩ := readPage_inside h (by omega)
  have hb' := (bounded_congr (execEnd_hangAt .readPage s)).trans hb
  obtain ⟨u, hu, hpage⟩ := readPageC_inside hb' henv ho rfl (by simp; omega)
  refine ⟨_, u, hex, hu, hpage.status, hpage.rvalid, ?_⟩
  rw [hpage.rdata, hA, Nat.add_mul, Nat.one_mul]
  rfl

/-- Settles O52: the three exchanges that the environment refuses. -/
theorem referenceEnvironmentRefusesOutsideItsDefinition :
    Obligations.ReferenceEnvironmentRefusesOutsideItsDefinition := by
  unfold Obligations.ReferenceEnvironmentRefusesOutsideItsDefinition
  intro s e h
  obtain ⟨hpres, hsel⟩ := h.selected
  have ⟨hb, he, _, ho, _, _⟩ := h
  refine ⟨fun hr => ?_, fun a hp hr => readPageC_outside hb he hp hr, fun hp => ?_, fun hA => ?_⟩
  · have hend := readPageEnd_env he
    rw [if_pos hpres] at hend
    exact exec_of_outside (by decide) hb he hend (Env.exchange_wRead_outside hsel hr)
  · have hA := h.pageAddr_toNat (by omega)
    obtain ⟨hex, hpage, henv⟩ := readPage_inside h (by omega)
    have hb' := (bounded_congr (execEnd_hangAt .readPage s)).trans hb
    exact ⟨_, hex, hpage.status, readPageC_outside hb' henv rfl (by simp; omega)⟩
  · have hend := phase1_env s.argAddr s.wdata he
    rw [if_pos hpres] at hend
    exact exec_of_outside (i := .writeScratchpad) (by decide) hb he (by simpa [instrEnd] using hend)
      (Env.exchange_wWsp_outside hsel hA _)

end Sys2Proof.Machine
end

section
/-! PROOFS. The copy phase against the reference environment (R67, R68, R122): the device after it, its confirmation byte, and
the write of a page (R69 (2)). -/

namespace Sys2Proof.Machine

variable {s t : State} {e : Env} {A : Word} {d : Bytes 32} {level : PowerLevel}

/-! ### The device -/

/-- The device after the copy command, the authorization byte under strong power, and the settling delay (R68, R122). -/
def Env.copyPhase (A : Word) (level : PowerLevel) (e : Env) : Env :=
  ((e.exchange (encode (.wCopy A)) level).2.exchange (encode .wAuth) .strong).2.sleep Config.tSettle .strong

/-- The device that sees the settling delay, where the copy frames reached it selected. -/
theorem Env.copyPhase_of_selected (hp : e.phase = .selected) :
    e.copyPhase A level =
      Env.sleep Config.tSettle .strong
        { e with armed := (Env.authorised .strong { e with copyAddr := some A }).or e.armed, copyAddr := none } := by
  rw [Env.copyPhase, Env.exchange_wCopy hp, Env.exchange_wAuth (by exact hp)]

/-- A copy to the staged address, inside the device, is committed (R68). -/
theorem Env.copyPhase_of_staged (hp : e.phase = .selected) (hs : e.scratch = some { addr := A, data := d })
    (hr : A.toNat + 31 < e.nPages * 32) :
    e.copyPhase A level =
      { e with mem := e.mem.writeBlock A.toNat d.toList, scratch := none, copyAddr := none, armed := none,
               copyDone := true } := by
  have hauth : Env.authorised .strong { e with copyAddr := some A } = some A := by
    simp [Env.authorised, hs, Env.inRange, hr]
  rw [Env.copyPhase_of_selected hp, hauth]
  simp [Env.sleep, hs]

/-- A copy to any other address commits nothing (R68). -/
theorem Env.copyPhase_of_unstaged (hp : e.phase = .selected) (ha : e.armed = none)
    (hs : ∀ sp, e.scratch = some sp → sp.addr = A → e.nPages * 32 ≤ A.toNat + 31) :
    e.copyPhase A level = { e with copyAddr := none } := by
  have hauth : Env.authorised .strong { e with copyAddr := some A } = none := by
    cases hsc : e.scratch with
    | none => simp [Env.authorised]
    | some sp =>
      simp only [Env.authorised, Env.inRange, decide_eq_true_eq, ite_eq_right_iff]
      rintro ⟨-, haddr, hr⟩
      have := hs sp hsc haddr.symm
      omega
  rw [Env.copyPhase_of_selected hp, hauth, Option.none_or, Env.sleep]
  simp only [ha]

/-- Where nobody is selected the copy phase does nothing (R64). -/
theorem Env.copyPhase_of_unselected (hp : e.phase = .unselected) (ha : e.armed = none) : e.copyPhase A level = e := by
  rw [Env.copyPhase, Env.exchange_unselected hp, Env.exchange_unselected hp, Env.sleep]
  simp only [ha]

/-- The copy phase after a selection stores a block at the address that it sends, or nothing (R61, R68). -/
theorem Env.copyPhase_mem (hp : e.phase = .selected ∨ e.phase = .unselected) (ha : e.armed = none) :
    (e.copyPhase A level).mem = e.mem ∨
      ∃ d : Bytes 32, (e.copyPhase A level).mem = e.mem.writeBlock A.toNat d.toList := by
  rcases hp with hp | hp
  · by_cases hs : ∃ d, e.scratch = some { addr := A, data := d } ∧ A.toNat + 31 < e.nPages * 32
    · obtain ⟨d, hs, hr⟩ := hs
      exact .inr ⟨d, by rw [Env.copyPhase_of_staged hp hs hr]⟩
    · have hs' : ∀ sp, e.scratch = some sp → sp.addr = A → e.nPages * 32 ≤ A.toNat + 31 := by
        rintro ⟨_, d⟩ hsp rfl
        by_contra hr
        exact hs ⟨d, hsp, by omega⟩
      exact .inl (by rw [Env.copyPhase_of_unstaged hp ha hs'])
  · exact .inl (by rw [Env.copyPhase_of_unselected hp ha])

/-- The device refuses nothing in a copy phase (R68). -/
theorem Env.copyPhase_inside (ho : e.outside = false) : (e.copyPhase A level).outside = false := by
  have hcopy : (e.exchange (encode (.wCopy A)) level).2.outside = false := by
    by_contra h
    rcases Env.exchange_encode_leaves (i := .wCopy A) nofun ho (Bool.not_eq_false _ ▸ h) with
      ⟨_, h, -⟩ | ⟨h, -⟩ | ⟨_, _, h, -⟩ <;> cases h
  have hauth : ((e.exchange (encode (.wCopy A)) level).2.exchange (encode .wAuth) .strong).2.outside = false := by
    by_contra h
    rcases Env.exchange_encode_leaves (i := .wAuth) nofun hcopy (Bool.not_eq_false _ ▸ h) with
      ⟨_, h, -⟩ | ⟨h, -⟩ | ⟨_, _, h, -⟩ <;> cases h
  rw [Env.copyPhase, Env.sleep_outside, hauth]

/-! ### Phase 2 -/

/-- The device after the copy phase, where the power is `standard` again (R122). -/
theorem copy_env (A : Word) (he : s.env = some e) :
    (powerOff (waitSettle (frameAuth (powerOn (frameCopy A s))))).env = some (e.copyPhase A s.busPower) := by
  have hcopy := (frameCopy_env A he).1
  have hauth := (frameAuth_env (s := powerOn (frameCopy A s)) hcopy).1
  simp only [powerOff, waitSettle, setPower_env, setSeq_env, settle_env, setSeq_busPower, frameAuth_busPower, hauth,
    Option.map_some]
  rfl

/-- The device after Phase 2 (R68, R122). -/
theorem phase2_env (A : Word) (he : s.env = some e) : (phase2 A s).2.env = some
    (if e.present = true then (e.select s.id).copyPhase A s.busPower else e.select s.id) := by
  obtain ⟨hfst, henv⟩ := select_env he
  simp only [phase2, hfst]
  split
  · simpa [confirm] using copy_env A henv
  · exact henv

theorem readByte_conf_of_some (he : s.env = some e) : (readByte s).conf = e.confirmByte s.oracle.takePick.1 := by
  simp [readByte, he]

/-- The confirmation byte of Phase 2 is the device's (R68, R122). -/
theorem phase2_conf (A : Word) (he : s.env = some e) (hp : e.present = true) :
    ∃ pick, (phase2 A s).2.conf = ((e.select s.id).copyPhase A s.busPower).confirmByte pick := by
  obtain ⟨-, henv⟩ := select_env he
  have hoff := copy_env A henv
  rw [select_busPower] at hoff
  rw [phase2_present s A ((busReset_fst_of_some s he).trans hp)]
  exact ⟨_, readByte_conf_of_some (s := setSeq .cpConf _) hoff⟩

/-- The confirmation byte decides Phase 2 (R82, R128). -/
theorem phase2_fst_of_conf (A : Word) (he : s.env = some e) (hp : e.present = true) :
    (phase2 A s).1 =
      if (phase2 A s).2.conf = 0x55 ∨ (phase2 A s).2.conf = 0xAA then .ok else .commitAmbiguous := by
  obtain ⟨-, -, -, -, -, -, -, -, -, hcode⟩ := phase2_spec s A ((busReset_fst_of_some s he).trans hp)
  exact hcode

/-- Where the copy is done, Phase 2 succeeds (R68, R82). -/
theorem phase2_of_toggles (he : s.env = some e) (hp : e.present = true)
    (ht : ((e.select s.id).copyPhase A s.busPower).toggles = true) : (phase2 A s).1 = .ok := by
  obtain ⟨pick, hconf⟩ := phase2_conf A he hp
  rw [phase2_fst_of_conf A he hp, hconf, Env.confirmByte, if_pos ht]
  cases pick <;> rfl

/-- Where it is not, the confirmation byte is 0xFF, and what became of the copy is unknown (R68, R128). -/
theorem phase2_of_not_toggles (he : s.env = some e) (hp : e.present = true)
    (ht : ((e.select s.id).copyPhase A s.busPower).toggles = false) :
    (phase2 A s).1 = .commitAmbiguous ∧ (phase2 A s).2.conf = 0xFF := by
  obtain ⟨pick, hconf⟩ := phase2_conf A he hp
  rw [Env.confirmByte, ht] at hconf
  exact ⟨by rw [phase2_fst_of_conf A he hp, hconf]; rfl, hconf⟩

/-- Settles O51: the copy is not armed, so the device stays as it is after the selection. -/
theorem referenceCopyNeedsTheStagedAddress : Obligations.ReferenceCopyNeedsTheStagedAddress := by
  unfold Obligations.ReferenceCopyNeedsTheStagedAddress
  intro s e h hs
  obtain ⟨hpres, hsel⟩ := h.selected
  obtain ⟨hb, he, -, ho, -, -⟩ := h
  have hcopy := Env.copyPhase_of_unstaged (level := s.busPower) hsel rfl fun sp hsp haddr => absurd haddr (hs sp hsp)
  have henv := phase2_env s.argAddr he
  rw [if_pos hpres, hcopy] at henv
  obtain ⟨hcode, hconf⟩ := phase2_of_not_toggles (A := s.argAddr) he hpres (by rw [hcopy]; rfl)
  have hend : (instrEnd .copyScratchpad s).env = _ := (finishPhase_env _).trans henv
  exact ⟨_, _, exec_of_inside (by decide) hb hend ho, (finishPhase_status _).trans hcode, (finishPhase_conf _).trans hconf,
    hend, rfl, rfl⟩

/-! ### What a copy leaves of the memory (R61, R62) -/

/-- Phase 2 changes the device's memory at the 32 bytes from its address alone. -/
theorem phase2_mem_outside (A : Word) (he : s.env = some e) (hm : e.mem.wf = true) :
    ∃ e', (phase2 A s).2.env = some e' ∧ ∀ a, a < A.toNat ∨ A.toNat + 32 ≤ a → e'.mem.read a = e.mem.read a := by
  refine ⟨_, phase2_env A he, fun a ha => ?_⟩
  split
  · rcases Env.copyPhase_mem (A := A) (level := s.busPower) (e.select_phase s.id) rfl with h | ⟨d, h⟩ <;> rw [h]
    · rfl
    · exact Memory.read_writeBlock_outside hm _ _ _ (by simpa using ha)
  · rfl

theorem commitStaged_env (A : Word) (s : State) :
    (commitStaged A s).env = (phase2 A (setWState .scratchpadStaged s)).2.env := by simp [commitStaged]

/-- The end of a `WRITE_PAGE` whose Phase 2 succeeds (R124, R125). -/
theorem commitStaged_of_phase2_ok (h : (phase2 A (setWState .scratchpadStaged s)).1 = .ok) :
    (commitStaged A s).status = .ok ∧ (commitStaged A s).wstate = .committed := by
  simp [commitStaged, h]

/-- A `WRITE_PAGE` that came to Phase 2 does not end in `Aborted` (R125). -/
theorem commitStaged_not_aborted (A : Word) (s : State) : (commitStaged A s).wstate ≠ .aborted := by
  simp only [commitStaged, finishPhase_wstate, setWState_wstate]
  split <;> nofun

theorem exists_env_of_mem? {m : Memory} (h : t.mem? = some m) : ∃ e, t.env = some e ∧ e.mem = m := by
  simpa [State.mem?] using h

/-- A `WRITE_PAGE` whose Phase 1 fails leaves the memory unchanged; one that goes on changes it at its page alone, and does
not end in `Aborted` (R124, R126). -/
theorem writePage_mem (he : s.env = some e) (hm : e.mem.wf = true) :
    ∃ e', (writePage s).env = some e' ∧ ((writePage s).wstate = .aborted → e'.mem = e.mem) ∧
      ∀ a, a < (pageAddr s.argPidx).toNat ∨ (pageAddr s.argPidx).toNat + 32 ≤ a → e'.mem.read a = e.mem.read a := by
  obtain ⟨e1, he1, hm1⟩ := exists_env_of_mem?
    ((phase1_mem? (setWState .idle s) (pageAddr s.argPidx) s.wdata).trans (State.mem?_eq he))
  by_cases hk : (phase1 (pageAddr s.argPidx) s.wdata (setWState .idle s)).1 = .ok
  · rw [writePage_of_phase1_ok s hk, ← hm1]
    obtain ⟨e2, he2, hout⟩ := phase2_mem_outside (pageAddr s.argPidx) (s := setWState .scratchpadStaged _) he1 (hm1 ▸ hm)
    exact ⟨e2, (commitStaged_env _ _).trans he2, fun hw => absurd hw (commitStaged_not_aborted _ _), hout⟩
  · rw [writePage_of_phase1_fail s hk]
    exact ⟨e1, he1, fun _ => hm1, fun a _ => by rw [hm1]⟩

/-- Settles O50: the two copies, and all the other instructions. -/
theorem onlyACopyChangesTheMemory : Obligations.OnlyACopyChangesTheMemory := by
  unfold Obligations.OnlyACopyChangesTheMemory
  intro i s t e he hm h
  rw [eq_execEnd_of_next h]
  by_cases hi : i ∈ [.copyScratchpad, .writePage]
  · simp only [List.mem_cons, List.not_mem_nil, or_false] at hi
    rcases hi with rfl | rfl
    · obtain ⟨e', he', hout⟩ := phase2_mem_outside s.argAddr he hm
      refine ⟨e', (finishPhase_env _).trans he', fun hne => absurd rfl hne, nofun, ?_⟩
      rintro A a rfl ha
      exact hout a ha
    · obtain ⟨e', he', haborted, hout⟩ := writePage_mem he hm
      refine ⟨e', he', fun _ hne => absurd rfl hne, fun _ => haborted, ?_⟩
      rintro A a rfl ha
      exact hout a ha
  · obtain ⟨e', he', hmem⟩ := exists_env_of_mem? ((execEnd_mem? hi s).trans (State.mem?_eq he))
    exact ⟨e', he', fun _ _ => hmem, fun _ _ => hmem, fun _ _ _ _ => by rw [hmem]⟩

/-! ### The write of a page (R69 (2)) -/

/-- `W.WSP` with the answer of the device: what it folds to (R67, R78). -/
theorem frameWsp_of_answer (he : s.env = some e) (hacc : s.acc = 0)
    (hx : (e.exchange (encode (.wWsp A d)) s.busPower).1 = some (withCrc ([cmdWsp, lo8 A, hi8 A] ++ d.toList))) :
    (frameWsp A d s).acc = 0xB001 := by
  obtain ⟨rx, c0, c1, hl, htr, -, hfold⟩ := frameWsp_spec s A d
  have hrx : rx ++ [c0, c1] = withCrc ([cmdWsp, lo8 A, hi8 A] ++ d.toList) :=
    (answer_of_trace htr (frameWsp_env A d he).2).trans (received_of_answer _ he hx)
  obtain ⟨-, hcrc⟩ := List.append_inj hrx (by simp [hl])
  rw [hfold, hacc, hcrc]
  exact crc16Fold_crcReply _

/-- Phase 1 to a page-aligned address succeeds, and stages the block (R67, R120). -/
theorem phase1_of_aligned (he : s.env = some e) (hp : e.present = true) (hid : e.devId = s.id)
    (hA : A.extractLsb' 0 5 = 0) (d : Bytes 32) :
    (phase1 A d s).1 = .ok ∧
      (phase1 A d s).2.env =
        some { e.select s.id with scratch := some { addr := A, data := d }, phase := .unselected } := by
  obtain ⟨-, henv⟩ := select_env he
  have hx := Env.exchange_wWsp (level := s.busPower) (Env.select_phase_of_match hp hid) hA d
  have hacc := frameWsp_of_answer (s := enterScratch (select s).2) henv rfl (by simpa using congrArg Prod.fst hx)
  refine ⟨?_, by rw [phase1_env A d he, if_pos hp, hx]⟩
  rw [phase1_present s A d ((busReset_fst_of_some s he).trans hp), scratchCode, if_pos ((valid_iff _).mpr hacc)]

/-- Phase 2 to the staged address, inside the device, commits the block (R68, R122). -/
theorem phase2_of_staged (he : s.env = some e) (hp : e.present = true) (hid : e.devId = s.id)
    (hs : e.scratch = some { addr := A, data := d }) (hr : A.toNat + 31 < e.nPages * 32) :
    (phase2 A s).1 = .ok ∧
      (phase2 A s).2.env =
        some { e.select s.id with mem := e.mem.writeBlock A.toNat d.toList, scratch := none, copyAddr := none,
                                  armed := none, copyDone := true } := by
  have hsel := Env.select_phase_of_match hp hid
  have hcopy := Env.copyPhase_of_staged (level := s.busPower) hsel hs hr
  refine ⟨phase2_of_toggles he hp ?_, by rw [phase2_env A he, if_pos hp, hcopy]; rfl⟩
  rw [hcopy, Env.toggles, hsel]
  rfl

/-- The page that a copy has just stored. -/
theorem Env.page_of_mem {m : Memory} (hm : m.wf = true) (h : e.mem = m.writeBlock A.toNat d.toList) :
    e.page A.toNat = d.toList := by
  have := Memory.readBlock_writeBlock hm d.toList A.toNat
  rwa [Vector.length_toList, ← h, Env.readBlock_eq_page] at this

/-- `WRITE_PAGE` of a page inside the device commits its data (R69 (2)), and the device is ready for what follows. -/
theorem writePage_inside (h : s.deviceReady e) (hr : (pageAddr s.argPidx).toNat + 31 < e.nPages * 32) :
    ∃ e', exec .writePage s = .next (writePage s) ∧ (writePage s).status = .ok ∧ (writePage s).wstate = .committed ∧
      (writePage s).deviceReady e' ∧ e'.nPages = e.nPages ∧
      e'.mem = e.mem.writeBlock (pageAddr s.argPidx).toNat s.wdata.toList := by
  obtain ⟨hb, he, hp, ho, hid, hn⟩ := h
  obtain ⟨hcode1, henv1⟩ :=
    phase1_of_aligned (s := setWState .idle s) he hp hid (pageAddr_aligned s.argPidx) s.wdata
  have hid1 : e.devId = (phase1 (pageAddr s.argPidx) s.wdata (setWState .idle s)).2.id := by simp [hid]
  obtain ⟨hcode2, henv2⟩ := phase2_of_staged (s := setWState .scratchpadStaged _) henv1 hp hid1 rfl hr
  have hcommit := writePage_of_phase1_ok s hcode1
  have hend := (congrArg State.env hcommit).trans ((commitStaged_env _ _).trans henv2)
  obtain ⟨hstatus, hw⟩ := commitStaged_of_phase2_ok hcode2
  exact ⟨_, exec_of_inside (i := .writePage) (by decide) hb hend ho, hcommit ▸ hstatus, hcommit ▸ hw,
    ⟨(bounded_congr (writePage_hangAt s)).trans hb, hend, hp, ho, hid.trans (writePage_id s).symm, hn⟩, rfl, rfl⟩

/-- Settles O47: R69 (2). The page is stored, and the read after it is that of R69 (1). -/
theorem referenceWriteThenReadReturnsTheData : Obligations.ReferenceWriteThenReadReturnsTheData := by
  unfold Obligations.ReferenceWriteThenReadReturnsTheData
  intro s e h hp hm
  have hA := h.pageAddr_toNat hp
  obtain ⟨e', hex, hstatus, hw, hready, hn, hmem⟩ := writePage_inside h (by omega)
  obtain ⟨hread, hpage, -⟩ := readPage_inside hready (by rw [writePage_argPidx, hn]; omega)
  rw [writePage_argPidx, Env.page_of_mem hm hmem] at hpage
  rw [hA] at hmem
  have ⟨_, henv, _⟩ := hready
  refine ⟨_, _, e', hex, hstatus, hw, henv, fun k => ?_, fun a ha => ?_, hread, hpage.status, bytes_ext hpage.rdata⟩
  · rw [hmem, Memory.read_writeBlock_inside hm _ _ _ (by simp)]
    rfl
  · rw [hmem, Memory.read_writeBlock_outside hm _ _ _ (by simpa using ha)]

end Sys2Proof.Machine
end

section
/-! PROOFS. The reference environment refuses nothing but R65, R66 and R67 say (R42, U2, U3); an absent device (R69 (4)), and a
continued read out of its place (U5). -/

namespace Sys2Proof.Machine

variable {s : State} {e e' : Env} {i : Instr}

/-! ### The absent device (R64, R69 (4)) -/

/-- Where the presence answer is 0, a selecting operation ends with `DeviceAbsent` after its bus reset (R109, R136). -/
theorem instrEnd_of_absent (hi : i ∈ selectingOps) (h : (busReset s).1 = false) :
    (instrEnd i s).status = .deviceAbsent ∧ (instrEnd i s).trace = s.trace ++ [.rst false] := by
  simp only [selectingOps, List.mem_cons, List.not_mem_nil, or_false] at hi
  rcases hi with rfl | rfl | rfl | rfl | rfl
  · obtain ⟨hfst, htr, -, -⟩ := select_absent s h
    simp [instrEnd, selectEnd, hfst, htr]
  · obtain ⟨hfst, htr, -, -⟩ := select_absent (clearRvalid s) ((busReset_clearRvalid_fst s).trans h)
    simp [instrEnd, readPageEnd, hfst, htr]
  · obtain ⟨-, htr, -, -⟩ := select_absent s h
    simp [instrEnd, phase1_absent s _ _ h, htr]
  · obtain ⟨-, htr, -, -⟩ := select_absent s h
    simp [instrEnd, phase2_absent s _ h, htr]
  · have h' : (busReset (setWState .idle s)).1 = false := (busReset_setWState_fst s .idle).trans h
    obtain ⟨-, htr, -, -⟩ := select_absent (setWState .idle s) h'
    have hp := phase1_absent (setWState .idle s) (pageAddr s.argPidx) s.wdata h'
    rw [instrEnd, writePage_of_phase1_fail s (by simp [hp]), hp]
    simp [htr]

/-- The absent device after a selecting operation. -/
theorem instrEnd_env_of_absent (hi : i ∈ selectingOps) (he : s.env = some e) (hp : e.present = false) :
    (instrEnd i s).env = some (e.select s.id) := by
  have hne : ¬ e.present = true := by simp [hp]
  simp only [selectingOps, List.mem_cons, List.not_mem_nil, or_false] at hi
  rcases hi with rfl | rfl | rfl | rfl | rfl
  · exact selectEnd_env he
  · rw [instrEnd, readPageEnd_env he, if_neg hne]
  · rw [instrEnd, finishPhase_env, phase1_env _ _ he, if_neg hne]
  · rw [instrEnd, finishPhase_env, phase2_env _ he, if_neg hne]
  · have h' : (busReset (setWState .idle s)).1 = false :=
      (busReset_setWState_fst s .idle).trans ((busReset_fst_of_some s he).trans hp)
    have henv := phase1_env (s := setWState .idle s) (pageAddr s.argPidx) s.wdata he
    rw [if_neg hne] at henv
    rw [instrEnd, writePage_of_phase1_fail s (by simp [phase1_absent _ _ _ h'])]
    exact henv

theorem not_mem_crcOps_of_selecting (hi : i ∈ selectingOps) : i ∉ crcOps := by
  simp only [selectingOps, List.mem_cons, List.not_mem_nil, or_false] at hi
  rcases hi with rfl | rfl | rfl | rfl | rfl <;> decide

/-- Settles O49: R69 (4). -/
theorem referenceAbsentDeviceIsReported : Obligations.ReferenceAbsentDeviceIsReported := by
  unfold Obligations.ReferenceAbsentDeviceIsReported
  intro i s e hi hb he hp ho
  exact ⟨_, exec_of_inside (not_mem_crcOps_of_selecting hi) hb (instrEnd_env_of_absent hi he hp) ho,
    instrEnd_of_absent hi ((busReset_fst_of_some s he).trans hp)⟩

/-! ### What the environment refuses, instruction by instruction -/

/-- An instruction in front of an environment completes, or the environment has left its definition at its end. -/
theorem exec_next_or_outside (hc : i ∉ crcOps) (hb : s.bounded = true) (ht : (instrEnd i s).env = some e') :
    (∃ t, exec i s = .next t) ∨ e'.outside = true := by
  cases ho : e'.outside with
  | false => exact .inl ⟨_, exec_of_inside hc hb ht ho⟩
  | true => exact .inr rfl

/-- A frame alone (R65 to R67). -/
theorem frame_next_or_refused (hf : i.format ≠ .host) (hb : s.bounded = true) (he : s.env = some e)
    (ho : e.outside = false) :
    (∃ t, exec i s = .next t) ∨ (∃ A : Word, i = .wRead A ∧ e.nPages * 32 ≤ A.toNat + 31) ∨
      (i = .wReadc ∧ ∃ a, e.phase = .reading a ∧ e.nPages * 32 ≤ a + 31) ∨
      (∃ (A : Word) (d : Bytes 32), i = .wWsp A d ∧ A.extractLsb' 0 5 ≠ 0) :=
  (exec_next_or_outside (not_mem_crcOps_of_frame hf) hb (instrEnd_env_of_frame hf he).1).imp_right
    (Env.exchange_encode_leaves hf ho)

theorem readPage_next_or_refused (hb : s.bounded = true) (he : s.env = some e) (ho : e.outside = false) :
    (∃ t, exec .readPage s = .next t) ∨ e.nPages * 32 ≤ (pageAddr s.argPidx).toNat + 31 := by
  refine (exec_next_or_outside (i := .readPage) (by decide) hb (readPageEnd_env he)).imp_right fun h => ?_
  split at h
  · rcases Env.exchange_encode_leaves (e := e.select s.id) (i := .wRead (pageAddr s.argPidx)) nofun ho h with
      ⟨_, hA, hr⟩ | ⟨hA, -⟩ | ⟨_, _, hA, -⟩ <;> cases hA
    exact hr
  · exact absurd (ho.symm.trans h) nofun

theorem readPageC_next_or_refused (hb : s.bounded = true) (he : s.env = some e) (ho : e.outside = false) :
    (∃ t, exec .readPageC s = .next t) ∨ ∃ a, e.phase = .reading a ∧ e.nPages * 32 ≤ a + 31 := by
  refine (exec_next_or_outside (by decide) hb (readPageCEnd_env he)).imp_right fun h => ?_
  rcases Env.exchange_encode_leaves (i := .wReadc) nofun ho h with ⟨_, hA, -⟩ | ⟨-, hr⟩ | ⟨_, _, hA, -⟩
  · cases hA
  · exact hr
  · cases hA

/-- Phase 1 leaves the environment inside its definition, but for a misaligned address (R67). -/
theorem phase1_inside_or_misaligned (A : Word) (d : Bytes 32) (he : s.env = some e) (ho : e.outside = false) :
    ∃ e', (phase1 A d s).2.env = some e' ∧ (e'.outside = true → A.extractLsb' 0 5 ≠ 0) := by
  refine ⟨_, phase1_env A d he, fun h => ?_⟩
  split at h
  · rcases Env.exchange_encode_leaves (e := e.select s.id) (i := .wWsp A d) nofun ho h with
      ⟨_, hA, -⟩ | ⟨hA, -⟩ | ⟨_, _, hA, hmis⟩ <;> cases hA
    exact hmis
  · exact absurd (ho.symm.trans h) nofun

theorem writeScratchpad_next_or_refused (hb : s.bounded = true) (he : s.env = some e) (ho : e.outside = false) :
    (∃ t, exec .writeScratchpad s = .next t) ∨ s.argAddr.extractLsb' 0 5 ≠ 0 := by
  obtain ⟨e', he', hmis⟩ := phase1_inside_or_misaligned s.argAddr s.wdata he ho
  exact (exec_next_or_outside (i := .writeScratchpad) (by decide) hb ((finishPhase_env _).trans he')).imp_right hmis

/-- Phase 2 leaves the environment inside its definition (R68). -/
theorem phase2_inside (A : Word) (he : s.env = some e) (ho : e.outside = false) :
    ∃ e', (phase2 A s).2.env = some e' ∧ e'.outside = false := by
  refine ⟨_, phase2_env A he, ?_⟩
  split
  · exact Env.copyPhase_inside ho
  · exact ho

/-- `WRITE_PAGE` leaves the environment inside its definition, since it writes to a page address (R41, R67, R68). -/
theorem writePage_keeps_inside (he : s.env = some e) (ho : e.outside = false) :
    ∃ e', (writePage s).env = some e' ∧ e'.outside = false := by
  obtain ⟨e1, he1, hmis⟩ := phase1_inside_or_misaligned (s := setWState .idle s) (pageAddr s.argPidx) s.wdata he ho
  have ho1 : e1.outside = false := by
    by_contra h
    exact hmis (Bool.not_eq_false _ ▸ h) (pageAddr_aligned s.argPidx)
  by_cases hk : (phase1 (pageAddr s.argPidx) s.wdata (setWState .idle s)).1 = .ok
  · obtain ⟨e2, he2, ho2⟩ := phase2_inside (s := setWState .scratchpadStaged _) (pageAddr s.argPidx) he1 ho1
    rw [writePage_of_phase1_ok s hk]
    exact ⟨e2, (commitStaged_env _ _).trans he2, ho2⟩
  · rw [writePage_of_phase1_fail s hk]
    exact ⟨e1, he1, ho1⟩

/-- Settles O53: the frames together, then one operation after the other. -/
theorem referenceEnvironmentRefusesNothingElse : Obligations.ReferenceEnvironmentRefusesNothingElse := by
  unfold Obligations.ReferenceEnvironmentRefusesNothingElse
  intro i s e hb he ho
  by_cases hf : i.format ≠ .host
  · rcases frame_next_or_refused hf hb he ho with h | h | ⟨h, hr⟩ | h
    · exact .inl h
    · exact .inr (.inr (.inl h))
    · exact .inr (.inr (.inr (.inl ⟨.inr h, hr⟩)))
    · exact .inr (.inr (.inr (.inr (.inr h))))
  cases i with
  | wMatch _ | wRead _ | wReadc | wWsp _ _ | wCopy _ | wAuth => exact absurd nofun hf
  | crcReset | crcAcc | crcCheck => exact .inl ⟨_, rfl⟩
  | select => exact .inl ⟨_, exec_of_inside (by decide) hb (selectEnd_env he) ho⟩
  | readPage => exact (readPage_next_or_refused hb he ho).imp_right fun hr => .inl ⟨rfl, hr⟩
  | readPageC =>
    exact (readPageC_next_or_refused hb he ho).imp_right fun hr => .inr (.inr (.inl ⟨.inl rfl, hr⟩))
  | writeScratchpad =>
    exact (writeScratchpad_next_or_refused hb he ho).imp_right fun hr => .inr (.inr (.inr (.inl ⟨rfl, hr⟩)))
  | copyScratchpad =>
    obtain ⟨e', he', ho'⟩ := phase2_inside s.argAddr he ho
    exact .inl ⟨_, exec_of_inside (by decide) hb ((finishPhase_env _).trans he') ho'⟩
  | writePage =>
    obtain ⟨e', he', ho'⟩ := writePage_keeps_inside he ho
    exact .inl ⟨_, exec_of_inside (by decide) hb he' ho'⟩

/-! ### A continued read out of its place (U5) -/

theorem finishRead_status (k : Nat) (s : State) :
    (finishRead k s).status = if s.acc = 0xB001 then .ok else .integrityMismatch := by
  split
  · rw [finishRead_of_valid s k ‹_›]; rfl
  · rw [finishRead_of_invalid s k ‹_›]; rfl

/-- 34 bytes of filler fail the check. -/
theorem crc16Fold_readFiller : crc16Fold 0 readFiller ≠ 0xB001 := by decide +kernel

/-- Settles O54: the filler comes back, or the oracle answers. -/
theorem referenceContinuedReadOutsideASequenceRuns : Obligations.ReferenceContinuedReadOutsideASequenceRuns := by
  unfold Obligations.ReferenceContinuedReadOutsideASequenceRuns
  intro s e hb he ho
  refine ⟨fun hp => ?_, fun r rest hp hr hl => ?_⟩
  · have hx := Env.exchange_unselected (level := s.busPower) hp (encode .wReadc)
    obtain ⟨u, hu, -, hacc, htr, henv⟩ :=
      readPageC_of_answer (rx := readFiller) hb he (by rw [hx]; rfl) (by rw [hx]; exact ho)
    rw [hx] at henv
    refine ⟨_, hu, ?_, (finishRead_env ..).trans henv, (finishRead_trace ..).trans htr⟩
    rw [finishRead_status, hacc, if_neg crc16Fold_readFiller]
  · have hx := Env.exchange_wReadc_stray (level := s.busPower) hp
    have hrx : (s.oracle.takeBytes 34).1 = r := by rw [← hl, takeBytes_script r rest s.oracle hr]
    obtain ⟨u, hu, -, hacc, htr, henv⟩ := readPageC_of_answer (rx := r) hb he (by rw [hx]; exact hrx) (by rw [hx]; exact ho)
    rw [hx] at henv
    exact ⟨_, _, hu, (finishRead_trace ..).trans htr, (finishRead_acc ..).trans hacc, by rw [finishRead_status, hacc],
      (finishRead_env ..).trans henv, rfl, rfl⟩

end Sys2Proof.Machine
end

section
/-! PROOFS. The decoder reads back every encoding (R71, R72, R75 to R80, R85), and what it makes of a command byte the host
presents (R71, R84, R151). -/

namespace Sys2Proof.Machine

variable {s : State} {b : Byte} {i : Instr} {tx : List Byte}

/-! ### Encoding and decoding -/

/-- The decoder reports a misaligned read only where the address on the wire is no page address (R41, R76). -/
theorem address_of_misalignedRead (h : decode .wmem tx = .error .misalignedRead) :
    (ofLoHi (tx.getD 1 0) (tx.getD 2 0)).extractLsb' 0 5 ≠ 0 := by
  simp only [decode] at h
  unfold decodeMemFrame at h
  split at h
  · split_ifs at h with _ _ _ hm <;> cases h
    exact hm
  · cases h

/-- A well-formed frame that a selected device sees is one that the decoder reads (R76, R78, R79). -/
theorem decode_wmem_of_deviceFrame (h : deviceFrame tx = some i) (hi : i.wellFormed = true) :
    decode .wmem tx = .ok i := by
  unfold deviceFrame at h
  split at h
  · cases h
    assumption
  · rename_i hd
    cases h
    exact absurd (by simpa [Instr.wellFormed] using hi) (address_of_misalignedRead hd)
  · cases h

/-- Settles O1: a command byte and the authorization byte by evaluation, every other frame by its lemma. -/
theorem decodeOfEncodeIsTheInstruction : Obligations.DecodeOfEncodeIsTheInstruction := by
  unfold Obligations.DecodeOfEncodeIsTheInstruction
  intro i hi
  cases i with
  | crcReset | crcAcc | crcCheck | select | readPage | readPageC | writeScratchpad | copyScratchpad | writePage => rfl
  | wMatch v => exact decode_encode_wMatch v
  | wRead a => exact decode_wmem_of_deviceFrame (deviceFrame_wRead a) hi
  | wReadc => exact decode_encode_wReadc
  | wWsp a d => exact decode_wmem_of_deviceFrame (deviceFrame_wWsp a d) hi
  | wCopy a => exact decode_wmem_of_deviceFrame (deviceFrame_wCopy a) hi
  | wAuth => rfl

/-- Settles O3: the words of the tables, by evaluation. -/
theorem tableWordsDecode : Obligations.TableWordsDecode := by
  unfold Obligations.TableWordsDecode
  exact ⟨rfl, rfl, rfl, rfl, rfl, rfl, rfl, rfl, rfl, rfl, rfl, rfl, rfl⟩

/-! ### The command byte that the host presents -/

/-- The three classes of command bytes that R84 reserves. -/
def ReservedCommand (b : Byte) : Prop :=
  b.extractLsb' 5 3 ≠ 0 ∨ 8 ≤ (b.extractLsb' 0 4).toNat ∨ (b.getLsbD 4 = true ∧ b.extractLsb' 0 4 ≠ 4)

/-- The decoder rejects the reserved command bytes and no other (R72, R84). -/
theorem decodeHost_error_iff : (∃ e, decodeHost b = .error e) ↔ ReservedCommand b := by
  unfold decodeHost
  split
  · rename_i hr
    exact iff_of_true ⟨_, rfl⟩ (.inl hr)
  rename_i hr
  split
  · rename_i hc
    split
    · rename_i ho
      exact iff_of_false nofun (by simp [ReservedCommand, not_not.mp hr, ho])
    · rename_i ho
      exact iff_of_true ⟨_, rfl⟩ (.inr (.inr ⟨hc, ho⟩))
  · rename_i hc
    have hres : ReservedCommand b ↔ 8 ≤ (b.extractLsb' 0 4).toNat := by
      rw [ReservedCommand, or_iff_right hr, or_iff_left fun h => hc h.1]
    rw [hres]
    generalize (b.extractLsb' 0 4).toNat = opc
    match opc with
    | 0 | 1 | 2 | 3 | 4 | 5 | 6 | 7 => exact iff_of_false nofun (by omega)
    | _ + 8 => exact iff_of_true ⟨_, rfl⟩ (by omega)

theorem present_of_error {e : DecodeError} (hb : s.busy = false) (hd : decodeHost b = .error e) :
    present b s = .refused .reservedCommand := by simp [present, hb, hd]

theorem present_of_ok (hb : s.busy = false) (hd : decodeHost b = .ok i) : present b s = exec i (accept b s) := by
  simp [present, hb, hd]

/-- Settles O4: the command byte is reserved, or the decoder answers the operation that begins. -/
theorem reservedCommandBytesAreRefused : Obligations.ReservedCommandBytesAreRefused := by
  unfold Obligations.ReservedCommandBytesAreRefused
  intro b s hb
  split_ifs with hr
  · obtain ⟨e, he⟩ := decodeHost_error_iff.mpr hr
    exact present_of_error hb he
  · cases hd : decodeHost b with
    | error e => exact absurd (decodeHost_error_iff.mp ⟨e, hd⟩) hr
    | ok i => exact ⟨i, mem_hostOps_of_decodeHost hd, rfl, present_of_ok hb hd⟩

/-- Settles O39: the host's move is presented, and the decoder answers the operation. -/
theorem stepRunsTheCommandedOperation : Obligations.StepRunsTheCommandedOperation := by
  unfold Obligations.StepRunsTheCommandedOperation
  intro s b rest i hb hm hd
  rw [step_of_command hb hm]
  exact present_of_ok hb hd

end Sys2Proof.Machine
end

section
/-! PROOFS. The six bus frames alone (R50, R75 to R80, R121): each completes where the oracle answers, with one exchange, and
writes no register but `ACC`, `TB`, `TBLEN` and `SEQ`. -/

namespace Sys2Proof.Machine

variable {s : State} {i : Instr}

/-- Where the oracle answers, a frame completes (R55, R166). -/
theorem exec_frame_of_oracle (hi : i.format ≠ .host) (ho : s.oracleAnswers) : exec i s = .next (instrEnd i s) := by
  rw [exec_eq_deliver (not_mem_crcOps_of_frame hi)]
  exact deliver_of_oracle _ _ ho.1 ho.2

/-- Every register but the four that a frame writes, `ACC`, `TB`, `TBLEN` and `SEQ`, is as before, and so are the bus power level
and what the last operation returned (R50, R75 to R80). -/
def State.frameKeeps (s t : State) : Prop :=
  s.sameInputs t ∧ t.wstate = s.wstate ∧ t.status = s.status ∧ t.rdata = s.rdata ∧ t.rvalid = s.rvalid ∧
    t.conf = s.conf ∧ t.present = s.present ∧ t.busy = s.busy ∧ t.busPower = s.busPower ∧ t.result = s.result

theorem instrEnd_frameKeeps (hi : i.format ≠ .host) (s : State) : s.frameKeeps (instrEnd i s) := by
  cases i with
  | crcReset | crcAcc | crcCheck | select | readPage | readPageC | writeScratchpad | copyScratchpad | writePage =>
    exact absurd rfl hi
  | wMatch _ | wRead _ | wReadc | wWsp _ _ | wCopy _ | wAuth => simp [State.frameKeeps, State.sameInputs, instrEnd]

/-- A frame completes where the oracle answers, and what holds of its end holds of every state it completes in. -/
theorem exec_frame_spec {P : State → Prop} (hi : i.format ≠ .host) (hp : P (instrEnd i s)) :
    (s.oracleAnswers → ∃ t, exec i s = .next t) ∧ ∀ t, exec i s = .next t → P t := by
  refine ⟨fun ho => ⟨_, exec_frame_of_oracle hi ho⟩, fun t h => ?_⟩
  rw [exec_eq_deliver (not_mem_crcOps_of_frame hi)] at h
  exact (deliver_next h).1 ▸ hp

/-- Settles O30: each frame's exchange, and what it leaves unchanged. -/
theorem unfoldedFramesResult : Obligations.UnfoldedFramesResult := by
  unfold Obligations.UnfoldedFramesResult
  rintro i bytes s (⟨v, rfl, rfl⟩ | ⟨a, rfl, rfl⟩ | ⟨rfl, rfl⟩)
  · obtain ⟨rx, hl, ht, hb⟩ := frameMatch_spec s v
    exact exec_frame_spec nofun ⟨rx, by simpa using hl, ht, by simpa [instrEnd] using hb, by simp [instrEnd],
      frameMatch_acc s v, instrEnd_frameKeeps (i := .wMatch v) nofun s⟩
  · obtain ⟨rx, hl, ht, hb⟩ := frameCopy_spec s a
    exact exec_frame_spec nofun ⟨rx, hl, ht, hb, by simp [instrEnd], frameCopy_acc s a,
      instrEnd_frameKeeps (i := .wCopy a) nofun s⟩
  · obtain ⟨rx, hl, ht, hb⟩ := frameAuth_spec s
    exact exec_frame_spec nofun ⟨rx, hl, ht, hb, by simp [instrEnd], frameAuth_acc s,
      instrEnd_frameKeeps (i := .wAuth) nofun s⟩

/-- Settles O31: each frame's exchange, what it folds, and what it leaves unchanged. -/
theorem foldedFramesResult : Obligations.FoldedFramesResult := by
  unfold Obligations.FoldedFramesResult
  rintro i sent filler s (⟨a, rfl, rfl, rfl⟩ | ⟨rfl, rfl, rfl⟩ | ⟨a, d, rfl, rfl, rfl⟩)
  · obtain ⟨rx, hl, ht, hb, ha⟩ := frameRead_spec s a
    refine exec_frame_spec nofun ⟨rx, hl, ht, ha, ?_, by simp [instrEnd], instrEnd_frameKeeps (i := .wRead a) nofun s⟩
    simp [instrEnd, hb, List.drop_eq_nil_of_le]
  · obtain ⟨rx, hl, ht, hb, ha⟩ := frameReadc_spec s
    exact exec_frame_spec nofun ⟨rx, hl, ht, ha, hb, by simp [instrEnd], instrEnd_frameKeeps (i := .wReadc) nofun s⟩
  · obtain ⟨rx, c0, c1, hl, ht, hb, ha⟩ := frameWsp_spec s a d
    refine exec_frame_spec nofun ⟨rx ++ [c0, c1], by simp [hl], ht, ?_, ?_, by simp [instrEnd],
      instrEnd_frameKeeps (i := .wWsp a d) nofun s⟩
    · simp [instrEnd, ha, hl]
    · simp [instrEnd, hb, List.drop_eq_nil_of_le]

end Sys2Proof.Machine
end

section
/-! PROOFS. The CRC16 Engine (R90 to R100, R103). The update is linear, so it is compared with the bit-serial CRC-16
on the two bytes of the accumulator apart; each step of that is injective, and so are the update and the fold. From that follow
the residue law, as one pair of bytes alone drives an accumulator to 0, and the detection of errors. -/

namespace Sys2Proof.Machine

/-! ### The parity of the XORed byte (R91, R92) -/

/-- The closed form of the table (R91). -/
theorem oddPar_eq_xor_bits :
    ∀ n : BitVec 4, oddPar n = (n.getLsbD 3 ^^ n.getLsbD 2 ^^ n.getLsbD 1 ^^ n.getLsbD 0) := by decide

/-- The two lookups together are the parity of the byte (R92). -/
theorem parityOdd_eq_xor_bits (c : Byte) :
    parityOdd c = (c.getLsbD 7 ^^ c.getLsbD 6 ^^ c.getLsbD 5 ^^ c.getLsbD 4 ^^ c.getLsbD 3 ^^ c.getLsbD 2 ^^ c.getLsbD 1 ^^
      c.getLsbD 0) := by
  rw [parityOdd, oddPar_eq_xor_bits, oddPar_eq_xor_bits, Bool.xor_comm]
  simp

theorem oddPar_xor (m n : BitVec 4) : oddPar (m ^^^ n) = (oddPar m ^^ oddPar n) := by
  simp only [oddPar_eq_xor_bits, BitVec.getLsbD_xor, Bool.xor_assoc, Bool.xor_left_comm]

theorem parityOdd_xor (c d : Byte) : parityOdd (c ^^^ d) = (parityOdd c ^^ parityOdd d) := by
  simp only [parityOdd, BitVec.extractLsb'_xor, oddPar_xor, Bool.xor_assoc, Bool.xor_left_comm]

/-- Settles O6: the table by computation, and the parity of the byte from its closed form. -/
theorem parityConditionIsTheByteParity : Obligations.ParityConditionIsTheByteParity := by
  unfold Obligations.ParityConditionIsTheByteParity
  exact ⟨by decide, oddPar_eq_xor_bits, parityOdd_eq_xor_bits⟩

/-! ### The bits of the update (R93) -/

/-- Each bit of the update's term: the parity at the polynomial's bits, and `c` at 6 and at 7 and up. -/
theorem crcTerm_getLsbD (c : Byte) {k : Nat} (hk : k < 16) :
    (crcTerm c).getLsbD k = ((parityOdd c && polyTerm.getLsbD k) ^^ (!decide (k < 6) && c.getLsbD (k - 6)) ^^
      (!decide (k < 7) && c.getLsbD (k - 7))) := by
  cases hp : parityOdd c <;> simp [crcTerm, hp, hk]

theorem crc16Update_getLsbD (a : Word) (b : Byte) (k : Nat) :
    (crc16Update a b).getLsbD k = ((hi8 a).getLsbD k ^^ (crcTerm (b ^^^ lo8 a)).getLsbD k) := by
  have hh : (a >>> 8).getLsbD k = (hi8 a).getLsbD k := by
    simpa [hi8] using fun h => Nat.lt_of_add_lt_add_left (BitVec.lt_of_getLsbD h : 8 + k < 8 + 8)
  rw [crc16Update_eq_xor, BitVec.getLsbD_xor, hh]

/-- Settles O7: the bits of the shifted accumulator and of the update's term. -/
theorem updateBitByBit : Obligations.UpdateBitByBit := by
  unfold Obligations.UpdateBitByBit
  rintro a b c h P t hc rfl hP rfl
  rw [← parityOdd_eq_xor_bits] at hP
  have bit {k : Nat} (hk : k < 16) := (crc16Update_getLsbD a b k).trans (by rw [← hc, crcTerm_getLsbD c hk, ← hP])
  refine ⟨?_, ?_, fun k hlo hhi => ?_, ?_, ?_, fun k hlo hhi => ?_, ?_⟩
  · simpa [polyTerm] using bit (k := 15) (by decide)
  · simpa [polyTerm] using bit (k := 14) (by decide)
  · have hp : polyTerm.getLsbD k = false := by interval_cases k <;> rfl
    rw [bit (by omega), BitVec.getLsbD_of_ge _ _ hlo, hp]
    simp [show ¬k < 6 by omega, show ¬k < 7 by omega]
  · simpa [polyTerm] using bit (k := 7) (by decide)
  · simpa [polyTerm] using bit (k := 6) (by decide)
  · have hp : polyTerm.getLsbD k = false := by interval_cases k <;> rfl
    rw [bit (by omega), hp]
    simp [show k < 6 by omega, show k < 7 by omega]
  · simpa [polyTerm] using bit (k := 0) (by decide)

/-! ### Linearity (R103) -/

/-- A word that a bit adds is linear in the bit. -/
theorem ite_bool_xor (p q : Bool) (w : Word) :
    (if (p ^^ q) = true then w else 0) = (if p = true then w else 0) ^^^ (if q = true then w else 0) := by
  cases p <;> cases q <;> simp

theorem crcTerm_xor (c d : Byte) : crcTerm (c ^^^ d) = crcTerm c ^^^ crcTerm d := by
  simp only [crcTerm, parityOdd_xor, ite_bool_xor, BitVec.setWidth_xor, BitVec.shiftLeft_xor_distrib]
  ac_rfl

/-- The update is linear in the pair of accumulator and byte. -/
theorem crc16Update_xor (a1 a2 : Word) (b1 b2 : Byte) :
    crc16Update (a1 ^^^ a2) (b1 ^^^ b2) = crc16Update a1 b1 ^^^ crc16Update a2 b2 := by
  have hc : b1 ^^^ b2 ^^^ (lo8 a1 ^^^ lo8 a2) = (b1 ^^^ lo8 a1) ^^^ (b2 ^^^ lo8 a2) := by ac_rfl
  simp only [crc16Update_eq_xor, lo8_xor, hc, crcTerm_xor, BitVec.ushiftRight_xor_distrib]
  ac_rfl

/-- The fold is linear in the pair of accumulator and list, at a fixed length. -/
theorem crc16Fold_xor (a1 a2 : Word) {l1 l2 : List Byte} (h : l1.length = l2.length) :
    crc16Fold (a1 ^^^ a2) (List.zipWith (· ^^^ ·) l1 l2) = crc16Fold a1 l1 ^^^ crc16Fold a2 l2 := by
  induction l1 generalizing a1 a2 l2 with
  | nil =>
    obtain rfl := List.eq_nil_of_length_eq_zero h.symm
    rfl
  | cons b1 l1 ih =>
    obtain ⟨b2, l2, rfl⟩ := List.exists_cons_of_length_eq_add_one h.symm
    rw [List.zipWith_cons_cons, crc16Fold, crc16Update_xor, ih _ _ (Nat.succ.inj h), crc16Fold, crc16Fold]

theorem crc16Fold_replicate_zero (n : Nat) : crc16Fold 0 (List.replicate n 0) = 0 := by
  induction n with
  | zero => rfl
  | succ n ih => exact ih

theorem lo8_setWidth (b : Byte) : lo8 (b.setWidth 16) = b := by
  ext k hk
  simp [lo8, hk, hk.trans (by decide : 8 < 16)]

theorem setWidth_shiftRight_eq_zero (b : Byte) : b.setWidth 16 >>> 8 = 0 := by
  ext k hk
  simp

/-- The update sees the byte through `c` alone. -/
theorem crc16Update_eq_zero_byte (a : Word) (b : Byte) : crc16Update a b = crc16Update (a ^^^ b.setWidth 16) 0 := by
  rw [crc16Update_eq_xor, crc16Update_eq_xor, lo8_xor, lo8_setWidth, BitVec.ushiftRight_xor_distrib,
    setWidth_shiftRight_eq_zero, BitVec.xor_comm b]
  simp

/-! ### The bit-serial CRC-16 (R98) -/

theorem crcSerialBit_eq_xor (t : Word) : crcSerialBit t = (t >>> 1) ^^^ (if t.getLsbD 0 then 0xA001 else 0) := by
  unfold crcSerialBit
  split <;> simp

theorem crcSerialBit_xor (s t : Word) : crcSerialBit (s ^^^ t) = crcSerialBit s ^^^ crcSerialBit t := by
  simp only [crcSerialBit_eq_xor, BitVec.getLsbD_xor, ite_bool_xor, BitVec.ushiftRight_xor_distrib]
  ac_rfl

theorem crcSerialBit_iterate_xor (n : Nat) (s t : Word) :
    crcSerialBit^[n] (s ^^^ t) = crcSerialBit^[n] s ^^^ crcSerialBit^[n] t := by
  induction n generalizing s t with
  | zero => rfl
  | succ n ih => simp only [Function.iterate_succ_apply, crcSerialBit_xor, ih]

/-- Steps that meet only zeros shift. -/
theorem crcSerialBit_iterate_of_zeros {n : Nat} {t : Word} (h : ∀ k < n, t.getLsbD k = false) :
    crcSerialBit^[n] t = t >>> n := by
  induction n generalizing t with
  | zero => rfl
  | succ n ih =>
    have h0 : crcSerialBit t = t >>> 1 := if_neg (by simpa using h 0 n.succ_pos)
    have hs : ∀ k < n, (t >>> 1).getLsbD k = false := fun k hk => by
      simpa [Nat.add_comm] using h (k + 1) (Nat.succ_lt_succ hk)
    rw [Function.iterate_succ_apply, h0, ih hs, ← BitVec.shiftRight_add, Nat.add_comm]

/-- Eight steps on one byte are the update's term: 256 bytes, by computation. -/
theorem crcSerialBit_iterate_byte : ∀ c : Byte, crcSerialBit^[8] (c.setWidth 16) = crcTerm c := by decide +kernel

/-- A word is its high byte, in place, and its low byte. -/
theorem eq_shift_xor_lo8 (a : Word) : a = a >>> 8 <<< 8 ^^^ (lo8 a).setWidth 16 := by
  apply BitVec.eq_of_getLsbD_eq
  intro k hk
  by_cases h8 : k < 8
  · simp [lo8, h8, hk]
  · simp [lo8, h8, hk, show 8 + (k - 8) = k by omega]

/-- R98: the high byte meets eight steps that shift it down, the low byte becomes the update's term. -/
theorem crc16Update_eq_iterate (a : Word) (b : Byte) : crc16Update a b = crcSerialBit^[8] (a ^^^ b.setWidth 16) := by
  rw [crc16Update_eq_zero_byte]
  generalize a ^^^ b.setWidth 16 = x
  have hhi : crcSerialBit^[8] (x >>> 8 <<< 8) = x >>> 8 := by
    rw [crcSerialBit_iterate_of_zeros fun k hk => by simp [hk]]
    apply BitVec.eq_of_getLsbD_eq
    intro k hk
    simpa [hk] using BitVec.lt_of_getLsbD
  calc crc16Update x 0 = x >>> 8 ^^^ crcTerm (lo8 x) := by simp [crc16Update_eq_xor]
    _ = crcSerialBit^[8] (x >>> 8 <<< 8) ^^^ crcSerialBit^[8] ((lo8 x).setWidth 16) := by rw [hhi, crcSerialBit_iterate_byte]
    _ = crcSerialBit^[8] x := by rw [← crcSerialBit_iterate_xor, ← eq_shift_xor_lo8]

/-- Settles O8: the model's own bit step, eight times; the check value by computation. -/
theorem updateEqualsBitSerial : Obligations.UpdateEqualsBitSerial := by
  unfold Obligations.UpdateEqualsBitSerial
  exact ⟨crc16Update_eq_iterate, by decide +kernel⟩

/-! ### The update and the fold are injective (R103) -/

/-- Bit 15 of a step's result is the bit shifted out. -/
theorem crcSerialBit_getLsbD_15 (t : Word) : (crcSerialBit t).getLsbD 15 = t.getLsbD 0 := by
  rw [crcSerialBit_eq_xor]
  cases t.getLsbD 0 <;> simp

/-- A step is injective (R103). -/
theorem crcSerialBit_injective : Function.Injective crcSerialBit := by
  intro s t h
  have h0 : s.getLsbD 0 = t.getLsbD 0 := by rw [← crcSerialBit_getLsbD_15, h, crcSerialBit_getLsbD_15]
  have hs : s >>> 1 = t >>> 1 := by
    rw [crcSerialBit_eq_xor, crcSerialBit_eq_xor, h0] at h
    exact (BitVec.xor_left_inj _).mp h
  apply BitVec.eq_of_getLsbD_eq
  rintro (_ | k) hk
  · exact h0
  · simpa [Nat.add_comm] using congrArg (BitVec.getLsbD · k) hs

theorem crc16Update_left_injective (b : Byte) : Function.Injective fun a => crc16Update a b := fun a a' h => by
  simp only [crc16Update_eq_iterate] at h
  exact (BitVec.xor_left_inj _).mp (crcSerialBit_injective.iterate 8 h)

theorem crc16Update_right_injective (a : Word) : Function.Injective (crc16Update a) := fun b b' h => by
  simp only [crc16Update_eq_iterate] at h
  have hw := (BitVec.xor_right_inj _).mp (crcSerialBit_injective.iterate 8 h)
  rw [← lo8_setWidth b, hw, lo8_setWidth]

theorem crc16Fold_injective (l : List Byte) : Function.Injective fun a => crc16Fold a l := by
  induction l with
  | nil => exact fun _ _ h => h
  | cons b l ih => exact ih.comp (crc16Update_left_injective b)

/-! ### The pair of bytes that drives the accumulator to 0, and the residue (R99) -/

theorem crc16Update_lo8 (a : Word) : crc16Update a (lo8 a) = a >>> 8 := by
  rw [crc16Update_eq_xor, BitVec.xor_self]
  exact BitVec.xor_zero

theorem crc16Fold_lo8_hi8 (a : Word) : crc16Fold a [lo8 a, hi8 a] = 0 := by
  rw [crc16Fold, crc16Fold, crc16Fold, crc16Update_lo8, ← lo8_shiftRight, crc16Update_lo8, shiftRight_shiftRight_eq_zero]

theorem crc16Fold_pair_eq_zero_iff (a : Word) (c0 c1 : Byte) : crc16Fold a [c0, c1] = 0 ↔ c0 = lo8 a ∧ c1 = hi8 a := by
  constructor
  · intro h
    have h0 := crc16Fold_lo8_hi8 (ofLoHi c0 c1)
    rw [lo8_ofLoHi, hi8_ofLoHi] at h0
    obtain rfl : a = ofLoHi c0 c1 := crc16Fold_injective [c0, c1] (h.trans h0.symm)
    simp
  · rintro ⟨rfl, rfl⟩
    exact crc16Fold_lo8_hi8 a

/-- To complement the accumulator is to add the residue to what a pair of bytes ends at. -/
theorem crc16Fold_complement_pair (a : Word) (c0 c1 : Byte) :
    crc16Fold (a ^^^ 0xFFFF) [c0, c1] = crc16Fold a [c0, c1] ^^^ 0xB001 := by
  have h := crc16Fold_xor a 0xFFFF (l1 := [c0, c1]) (l2 := [0, 0]) rfl
  have hr : crc16Fold 0xFFFF [0, 0] = 0xB001 := by decide
  rw [hr] at h
  simpa using h

/-- A pair of bytes ends at the residue exactly if it is the complement, low byte first. -/
theorem crc16Fold_pair_eq_residue_iff (a : Word) (c0 c1 : Byte) :
    crc16Fold a [c0, c1] = 0xB001 ↔ c0 = lo8 (a ^^^ 0xFFFF) ∧ c1 = hi8 (a ^^^ 0xFFFF) := by
  rw [← crc16Fold_pair_eq_zero_iff, crc16Fold_complement_pair]
  exact BitVec.xor_eq_zero_iff.symm

/-- High byte first: the end depends on the exclusive or of the two bytes alone. -/
theorem crc16Fold_swapped (a : Word) :
    crc16Fold a [hi8 (a ^^^ 0xFFFF), lo8 (a ^^^ 0xFFFF)] =
      crc16Fold 0 [lo8 a ^^^ hi8 a ^^^ 0xFF, lo8 a ^^^ hi8 a ^^^ 0xFF] := by
  have hlo : lo8 a ^^^ hi8 (a ^^^ 0xFFFF) = lo8 a ^^^ hi8 a ^^^ 0xFF := by
    rw [hi8_xor, BitVec.xor_assoc]
    rfl
  have hhi : hi8 a ^^^ lo8 (a ^^^ 0xFFFF) = lo8 a ^^^ hi8 a ^^^ 0xFF := by
    rw [lo8_xor, ← BitVec.xor_assoc, BitVec.xor_comm (hi8 a)]
    rfl
  calc crc16Fold a [hi8 (a ^^^ 0xFFFF), lo8 (a ^^^ 0xFFFF)]
      = crc16Fold a [lo8 a, hi8 a] ^^^ crc16Fold a [hi8 (a ^^^ 0xFFFF), lo8 (a ^^^ 0xFFFF)] := by
        rw [crc16Fold_lo8_hi8]
        exact BitVec.zero_xor.symm
    _ = crc16Fold (a ^^^ a) [lo8 a ^^^ hi8 (a ^^^ 0xFFFF), hi8 a ^^^ lo8 (a ^^^ 0xFFFF)] :=
        (crc16Fold_xor a a (l1 := [lo8 a, hi8 a]) (l2 := [hi8 (a ^^^ 0xFFFF), lo8 (a ^^^ 0xFFFF)]) rfl).symm
    _ = crc16Fold 0 [lo8 a ^^^ hi8 a ^^^ 0xFF, lo8 a ^^^ hi8 a ^^^ 0xFF] := by
        rw [hlo, hhi, BitVec.xor_self]
        rfl

/-- The same byte twice: no two bytes end alike. -/
theorem crc16Fold_twice_injective : Function.Injective fun x : Byte => crc16Fold 0 [x, x] := by
  intro x y h
  have h0 : crc16Fold 0 [x ^^^ y, x ^^^ y] = 0 :=
    (crc16Fold_xor 0 0 (l1 := [x, x]) (l2 := [y, y]) rfl).trans (BitVec.xor_eq_zero_iff.mpr h)
  obtain ⟨hxy, -⟩ := (crc16Fold_pair_eq_zero_iff _ _ _).mp h0
  exact BitVec.xor_eq_zero_iff.mp hxy

/-- Settles O9: the pair that ends at the residue, a message with its CRC, the two bytes swapped, and the pair that ends at 0. -/
theorem residueLaw : Obligations.ResidueLaw := by
  unfold Obligations.ResidueLaw
  refine ⟨crc16Fold_pair_eq_residue_iff, crc16Fold_withCrc,
    ⟨fun d => crc16Fold 0 [d ^^^ 0xFF, d ^^^ 0xFF], ?_, crc16Fold_swapped⟩, crc16Fold_lo8_hi8⟩
  exact fun d e h => (BitVec.xor_left_inj _).mp (crc16Fold_twice_injective h)

/-- Settles O10: the lemmas above; on the finite type of the accumulators an injective update is a bijection. -/
theorem updateAlgebra : Obligations.UpdateAlgebra := by
  unfold Obligations.UpdateAlgebra
  exact ⟨crc16Update_xor, by decide, fun a1 a2 _ _ => crc16Fold_xor a1 a2,
    fun b => Finite.injective_iff_bijective.mp (crc16Update_left_injective b), crc16Update_eq_zero_byte,
    fun a => ⟨crc16Update_lo8 a, crc16Fold_lo8_hi8 a⟩, crc16Fold_replicate_zero⟩

/-! ### Error detection (R100) -/

/-- Two messages of one length that differ in one byte fold to different values. -/
theorem byte_eq_of_crc16Fold_eq {a : Word} {pre post : List Byte} {b c : Byte}
    (h : crc16Fold a (pre ++ [b] ++ post) = crc16Fold a (pre ++ [c] ++ post)) : b = c := by
  simp only [crc16Fold_append] at h
  exact crc16Update_right_injective _ (crc16Fold_injective post h)

theorem xor_twoPow_ne (b : Byte) {k : Nat} (hk : k < 8) : b ^^^ BitVec.twoPow 8 k ≠ b := fun h => by
  have hbit := congrArg (BitVec.getLsbD · k) h
  simp [hk] at hbit

/-- Settles O11: the flipped byte differs, and so the fold; two messages with their CRCs are undetected corruptions of each
other. -/
theorem singleBitErrorsAreDetected : Obligations.SingleBitErrorsAreDetected := by
  unfold Obligations.SingleBitErrorsAreDetected
  refine ⟨fun pre post b k hk hv he => xor_twoPow_ne b hk (byte_eq_of_crc16Fold_eq (he.trans hv.symm)), ?_⟩
  exact ⟨withCrc [0], withCrc [1], by decide, rfl, crc16Fold_withCrc _, crc16Fold_withCrc _⟩

/-! ### The three operations (R94 to R96) -/

/-- How every CRC operation ends: `BUSY` and `SEQ` say so (R29), and all else but `ACC` and the result is as before. -/
def State.crcEnds (s t : State) : Prop :=
  t.busy = false ∧ t.seq = .idle ∧ s.sameBus t ∧ s.sameInputs t ∧ t.status = s.status ∧ t.wstate = s.wstate ∧
    t.rdata = s.rdata ∧ t.rvalid = s.rvalid ∧ t.conf = s.conf ∧ t.present = s.present

theorem execEnd_crcEnds {i : Instr} (hi : i ∈ crcOps) (s : State) : s.crcEnds (execEnd i s) := by
  simp only [crcOps, List.mem_cons, List.not_mem_nil, or_false] at hi
  rcases hi with rfl | rfl | rfl <;> simp [State.crcEnds, State.sameBus, State.sameInputs, execEnd]

/-- Settles O12: the state with `ACC` cleared, at the operation's end. -/
theorem crcResetResult : Obligations.CrcResetResult := by
  unfold Obligations.CrcResetResult
  refine ⟨fun s => ?_, rfl⟩
  have hi : Instr.crcReset ∈ crcOps := by decide
  exact ⟨_, exec_of_mem_crcOps hi s, rfl, rfl, rfl, execEnd_crcEnds hi s⟩

/-- Settles O13: the state with `ARG_BYTE` folded, at the operation's end. -/
theorem crcAccResult : Obligations.CrcAccResult := by
  unfold Obligations.CrcAccResult
  refine ⟨fun s => ?_, rfl, by decide⟩
  have hi : Instr.crcAcc ∈ crcOps := by decide
  exact ⟨_, exec_of_mem_crcOps hi s, rfl, rfl, rfl, execEnd_crcEnds hi s⟩

/-- Settles O14: the same state, at the operation's end. -/
theorem crcCheckResult : Obligations.CrcCheckResult := by
  unfold Obligations.CrcCheckResult
  refine ⟨fun s => ?_, rfl, by decide⟩
  have hi : Instr.crcCheck ∈ crcOps := by decide
  exact ⟨_, exec_of_mem_crcOps hi s, rfl, rfl, execEnd_crcEnds hi s⟩

end Sys2Proof.Machine
end

section
/-! PROOFS. The Device Selector (R105 to R109): what `SELECT` does, and that every operation that selects ends where no device
answers its bus reset. -/

namespace Sys2Proof.Machine

variable {s : State} {i : Instr}

/-! ### Operations where the oracle answers -/

/-- Where the oracle answers, every instruction but the CRC operations completes (R55, R166). -/
theorem exec_of_oracle (hc : i ∉ crcOps) (ho : s.oracleAnswers) : exec i s = .next (instrEnd i s) := by
  obtain ⟨hb, he⟩ := ho
  rw [exec_eq_deliver hc]
  exact deliver_of_oracle _ _ hb he

/-- An instruction completes where the oracle answers, and what holds of its end holds of every state it completes in. -/
theorem exec_spec_of_instrEnd {P : State → Prop} (hc : i ∉ crcOps) (hp : P (instrEnd i s)) :
    (s.oracleAnswers → ∃ t, exec i s = .next t) ∧ ∀ t, exec i s = .next t → P t := by
  refine ⟨fun ho => ⟨_, exec_of_oracle hc ho⟩, fun t h => ?_⟩
  rw [exec_eq_deliver hc] at h
  exact (deliver_next h).1 ▸ hp

/-! ### `SELECT` (R105, R107) -/

theorem selectEnd_of_present (h : (busReset s).1 = true) : selectEnd s = done .success (select s).2 := by
  rw [selectEnd, select_fst_eq, if_pos h]

theorem selectEnd_of_absent (h : (busReset s).1 = false) : selectEnd s = fail .deviceAbsent (select s).2 := by
  rw [selectEnd, select_fst_eq, h, if_neg Bool.false_ne_true]

@[simp] theorem selectEnd_present (s : State) : (selectEnd s).present = (busReset s).1 := by
  rw [← select_fst_eq, ← select_present, selectEnd]
  split <;> rfl

/-- Settles O19: the bytes that the match frame receives are the first nine of `TB` at the end. -/
theorem selectResult : Obligations.SelectResult := by
  unfold Obligations.SelectResult
  intro s
  refine exec_spec_of_instrEnd (by decide) ⟨(busReset s).1, (selectEnd s).tb.toList.take 9, by simp, rfl, selectEnd_present s,
    selectEnd_busy s, selectEnd_seq s, selectEnd_sameInputs s, selectEnd_acc s, selectEnd_wstate s, selectEnd_rdata s,
    selectEnd_conf s, selectEnd_busPower s, fun hp => ?_, fun hp => ?_⟩
  · obtain ⟨-, htrace, htb, htbLen⟩ := select_absent s hp
    rw [instrEnd, selectEnd_of_absent hp]
    exact ⟨htrace, rfl, rfl, rfl, htb, htbLen⟩
  · obtain ⟨-, htbLen, rx, hrx, htrace, htb⟩ := select_present_spec s hp
    rw [instrEnd, selectEnd_of_present hp, done_tb, done_trace, htb, List.take_left' hrx]
    exact ⟨htrace, rfl, select_rvalid s, rfl, rfl, htbLen⟩

/-! ### No device (R109, R136) -/

theorem select_snd_of_absent (h : (busReset s).1 = false) : (select s).2 = (probe s).2 := by
  rw [select_of_absent s ((probe_fst s).trans h)]

/-- A bus reset does not look at `RVALID`. -/
theorem probe_clearRvalid_snd (s : State) : (probe (clearRvalid s)).2 = clearRvalid (probe s).2 := by
  simp only [probe, busReset, setSeq_env, clearRvalid_env]
  cases s.env <;> rfl

/-- A bus reset does not look at `WSTATE`. -/
theorem probe_setWState_snd (w : WState) (s : State) : (probe (setWState w s)).2 = setWState w (probe s).2 := by
  simp only [probe, busReset, setSeq_env, setWState_env]
  cases s.env <;> rfl

theorem setWState_probe (s : State) : setWState s.wstate (probe s).2 = (probe s).2 :=
  (probe_setWState_snd s.wstate s).symm

theorem writePage_of_absent (h : (busReset s).1 = false) :
    writePage s = fail .deviceAbsent (setWState .aborted (probe s).2) := by
  have h' : (busReset (setWState .idle s)).1 = false := (busReset_setWState_fst s .idle).trans h
  have hphase := phase1_absent (setWState .idle s) (pageAddr s.argPidx) s.wdata h'
  rw [writePage_of_phase1_fail s (by simp [hphase]), hphase, select_snd_of_absent h', probe_setWState_snd]
  rfl

/-- Where no device answers, the operations that select are a bus reset and one failure: they differ in `WSTATE` alone, which
`WRITE_PAGE` writes (R109, R124, R136). -/
theorem instrEnd_eq_fail_of_absent (hi : i ∈ selectingOps) (h : (busReset s).1 = false) :
    instrEnd i s =
      fail .deviceAbsent (setWState (if i = .writePage then .aborted else s.wstate) (probe s).2) := by
  simp only [selectingOps, List.mem_cons, List.not_mem_nil, or_false] at hi
  rcases hi with rfl | rfl | rfl | rfl | rfl
  · rw [instrEnd, selectEnd_of_absent h, select_snd_of_absent h, if_neg nofun, setWState_probe]
  · have h' : (busReset (clearRvalid s)).1 = false := (busReset_clearRvalid_fst s).trans h
    rw [instrEnd, readPageEnd, select_fst_eq, h', if_neg Bool.false_ne_true, select_snd_of_absent h', probe_clearRvalid_snd,
      if_neg nofun, setWState_probe]
    rfl
  · rw [instrEnd, phase1_absent s _ _ h, select_snd_of_absent h, finishPhase_of_ne _ (c := .deviceAbsent) nofun,
      if_neg nofun, setWState_probe]
  · rw [instrEnd, phase2_absent s _ h, select_snd_of_absent h, finishPhase_of_ne _ (c := .deviceAbsent) nofun,
      if_neg nofun, setWState_probe]
  · exact writePage_of_absent h

/-- Settles O20: the five operations end in one state, up to `WSTATE`. -/
theorem absentDeviceEndsEverySelectingOperation : Obligations.AbsentDeviceEndsEverySelectingOperation := by
  unfold Obligations.AbsentDeviceEndsEverySelectingOperation
  intro i s hi ho hp
  refine ⟨_, exec_of_oracle (not_mem_crcOps_of_selecting hi) ho, ?_⟩
  rw [instrEnd_eq_fail_of_absent hi hp]
  simp [probe_trace, probe_fst, hp]

end Sys2Proof.Machine
end

section
/-! PROOFS. The Page Reader (R110 to R115): the two reads end in one check, told once, and a continued read does not look at
`ARG_PIDX`. -/

namespace Sys2Proof.Machine

variable {s : State}

/-! ### The check at a read's end (R110 to R112) -/

/-- `t` ends a read from `s` whose received data are `page`: they are in `RDATA` iff `ACC` is the residue (R110 to R112). -/
def State.readChecked (s t : State) (page : List Byte) : Prop :=
  if t.acc = 0xB001 then t.status = .ok ∧ t.rvalid = true ∧ t.rdata.toList = page ∧ t.result = .data t.rdata
  else t.status = .integrityMismatch ∧ t.rvalid = false ∧ t.rdata = s.rdata ∧ t.result = .failure .integrityMismatch

/-- The check from the last fold on: `TB` holds 32 bytes of data from `TB[k]`. -/
theorem finishRead_readChecked (s : State) {k : Nat} (hk : k ≤ 5) :
    s.readChecked (finishRead k s) ((s.tb.toList.drop k).take 32) := by
  rw [State.readChecked, finishRead_acc]
  split
  next h =>
    rw [finishRead_of_valid s k h]
    exact ⟨rfl, rfl, toBytes_toList_of_eq (by simp; omega), rfl⟩
  next h =>
    rw [finishRead_of_invalid s k h]
    exact ⟨rfl, rfl, rfl, rfl⟩

/-! ### `READ_PAGE` (R110) -/

theorem readPageEnd_of_present (h : (busReset s).1 = true) :
    readPageEnd s = finishRead 3 (frameRead (pageAddr s.argPidx) (enterRead (select (clearRvalid s)).2)) := by
  rw [readPageEnd, select_fst_eq, busReset_clearRvalid_fst, if_pos h, select_argPidx, clearRvalid_argPidx]

theorem readPageEnd_of_absent (h : (busReset s).1 = false) :
    readPageEnd s = fail .deviceAbsent (select (clearRvalid s)).2 := by
  rw [readPageEnd, select_fst_eq, busReset_clearRvalid_fst, h, if_neg Bool.false_ne_true]

@[simp] theorem readPageEnd_present (s : State) : (readPageEnd s).present = (busReset s).1 := by
  rw [← busReset_clearRvalid_fst, ← select_fst_eq, ← select_present, readPageEnd]
  split <;> simp

/-- Settles O21: the match frame's answer is in `TB` after the selection, the read's answer at the end. -/
theorem readPageResult : Obligations.ReadPageResult := by
  unfold Obligations.ReadPageResult
  intro s
  refine exec_spec_of_instrEnd (by decide) ⟨(busReset s).1, (select (clearRvalid s)).2.tb.toList.take 9,
    (readPageEnd s).tb.toList, by simp, by simp, rfl, readPageEnd_present s, readPageEnd_busy s, readPageEnd_seq s,
    readPageEnd_sameInputs s, readPageEnd_wstate s, readPageEnd_conf s, readPageEnd_busPower s, fun hp => ?_, fun hp => ?_⟩
  · obtain ⟨-, htrace, -, -⟩ := select_absent (clearRvalid s) ((busReset_clearRvalid_fst s).trans hp)
    rw [instrEnd, readPageEnd_of_absent hp]
    exact ⟨htrace, select_acc _, rfl, rfl, select_rdata _, rfl⟩
  · obtain ⟨-, -, m, hm, hsel, hmtb⟩ := select_present_spec (clearRvalid s) ((busReset_clearRvalid_fst s).trans hp)
    obtain ⟨rx, -, hread, hrx, hacc⟩ := frameRead_spec (enterRead (select (clearRvalid s)).2) (pageAddr s.argPidx)
    have hcheck := finishRead_readChecked (frameRead (pageAddr s.argPidx) (enterRead (select (clearRvalid s)).2))
      (k := 3) (by omega)
    rw [instrEnd, readPageEnd_of_present hp, hmtb, List.take_left' hm, finishRead_tb, hrx, finishRead_trace, hread]
    refine ⟨congrArg (· ++ _) hsel, ?_, ?_⟩
    · rw [finishRead_acc, hacc, crc16Fold_append]
      rfl
    · simpa [State.readChecked, hrx] using hcheck

/-! ### `READ_PAGE.C` (R111) -/

/-- Settles O22: a selection is no part of a continued read, so its one exchange is the whole of it. -/
theorem continuedReadResult : Obligations.ContinuedReadResult := by
  unfold Obligations.ContinuedReadResult
  intro s
  obtain ⟨rx, hlen, htrace, htb, hacc⟩ := frameReadc_spec (enterRead (clearRvalid s))
  have hcheck := finishRead_readChecked (frameReadc (enterRead (clearRvalid s))) (k := 0) (by omega)
  have hpage : (frameReadc (enterRead (clearRvalid s))).tb.toList.take 32 = rx.take 32 := by
    rw [htb, List.take_append_of_le_length (by omega)]
  refine exec_spec_of_instrEnd (by decide) ⟨rx, hlen, (finishRead_trace ..).trans htrace, (finishRead_acc ..).trans hacc,
    by simp [instrEnd], finishRead_busy .., finishRead_seq .., execEnd_sameInputs .readPageC s, by simp [instrEnd],
    by simp [instrEnd], by simp [instrEnd], ?_⟩
  simpa [State.readChecked, hpage, instrEnd] using hcheck

/-! ### What a continued read does not look at (R114) -/

/-- The same state with another page index in its latch. -/
def State.withPidx (j : Word) (s : State) : State := { s with argPidx := j }

theorem exchange_withPidx (j : Word) (n : Nat) (s : State) : exchange n (s.withPidx j) = (exchange n s).withPidx j := by
  simp only [exchange, afterExchange, received, State.withPidx, record]; split <;> rfl

theorem frameReadc_withPidx (j : Word) (s : State) : frameReadc (s.withPidx j) = (frameReadc s).withPidx j := by
  have hx := exchange_withPidx j 34 (readcCall s)
  exact congrArg (fun u => foldBytes ((setSeq .rdFold u).tb.toList.take 34) (setSeq .rdFold u)) hx

theorem finishRead_withPidx (j : Word) (k : Nat) (s : State) :
    finishRead k (s.withPidx j) = (finishRead k s).withPidx j := by
  by_cases h : s.acc = 0xB001
  · rw [finishRead_of_valid s k h, finishRead_of_valid (s.withPidx j) k h]
    rfl
  · rw [finishRead_of_invalid s k h, finishRead_of_invalid (s.withPidx j) k h]
    rfl

/-- A continued read carries the page index along to its end and does not read it. -/
theorem instrEnd_readPageC_withPidx (j : Word) (s : State) :
    instrEnd .readPageC (s.withPidx j) = (instrEnd .readPageC s).withPidx j := by
  have hf := frameReadc_withPidx j (enterRead (clearRvalid s))
  exact (congrArg (finishRead 0) hf).trans (finishRead_withPidx j 0 _)

/-! ### A delivery, seen through a function of its states -/

section View

variable {f : State → State} (htrace : ∀ u, (f u).trace = u.trace) (henv : ∀ u, (f u).env = u.env)

include htrace in
/-- Which call hangs depends on the history alone. -/
theorem hungCall_map (s : State) (calls : List State) : hungCall s (calls.map f) = (hungCall s calls).map f := by
  induction calls with
  | nil => simp
  | cons p l ih =>
    rw [List.map_cons, hungCall_cons, hungCall_cons, ih, htrace]
    split <;> rfl

include henv in
/-- Whether the reference environment refuses depends on the environment alone. -/
theorem viewState_unlessRefused_map (s t : State) (o : Host.Outcome State Fault Refusal) :
    viewState f (unlessRefused s t o) = unlessRefused s (f t) (viewState f o) := by
  have ho : (f t).envOutside = t.envOutside := by simp only [State.envOutside, henv]
  unfold unlessRefused
  rw [ho]
  split <;> rfl

include htrace henv in
/-- Where `f` keeps the history and the environment, a delivery seen through `f` delivers the work seen through `f`. -/
theorem viewState_deliver_map (s : State) (calls : List State) (t : State) :
    viewState f (deliver s calls t) = deliver s (calls.map f) (f t) := by
  unfold deliver
  rw [hungCall_map htrace]
  cases hungCall s calls with
  | none => exact viewState_unlessRefused_map henv s t _
  | some p => exact viewState_unlessRefused_map henv s p _

end View

/-- Settles O23: the two states become one when `ARG_PIDX` is overwritten, before the read or after it. -/
theorem continuedReadIgnoresThePageIndex : Obligations.ContinuedReadIgnoresThePageIndex := by
  unfold Obligations.ContinuedReadIgnoresThePageIndex
  intro s i j
  have hview : viewState (State.withPidx j) (exec .readPageC (s.withPidx i)) = exec .readPageC (s.withPidx j) := by
    rw [exec_eq_deliver (by decide), exec_eq_deliver (by decide),
      viewState_deliver_map (f := State.withPidx j) (fun _ => rfl) (fun _ => rfl), ← instrEnd_readPageC_withPidx]
    exact deliver_congr rfl rfl
  exact hview

end Sys2Proof.Machine
end

section
/-! PROOFS. The Page Writer (R120 to R131): the ends of the two standalone phases, the five paths of `WRITE_PAGE`, and that
it is the one phase after the other. -/

namespace Sys2Proof.Machine

variable {s t u : State}

/-! ### The two phases without a device, and their answers with one (R120, R122) -/

theorem phase1_absent_spec (a : Word) (d : Bytes 32) (h : (busReset s).1 = false) :
    (phase1 a d s).1 = .deviceAbsent ∧ (phase1 a d s).2.trace = s.trace ++ [.rst false] ∧
      (phase1 a d s).2.acc = s.acc := by
  obtain ⟨-, htrace, -, -⟩ := select_absent s h
  rw [phase1_absent s a d h]
  exact ⟨rfl, htrace, select_acc s⟩

theorem phase2_absent_spec (a : Word) (h : (busReset s).1 = false) :
    (phase2 a s).1 = .deviceAbsent ∧ (phase2 a s).2.trace = s.trace ++ [.rst false] ∧ (phase2 a s).2.conf = s.conf ∧
      (phase2 a s).2.busPower = s.busPower := by
  obtain ⟨-, htrace, -, -⟩ := select_absent s h
  rw [phase2_absent s a h]
  exact ⟨rfl, htrace, select_conf s, select_busPower s⟩

/-- The bytes received in Phase 1: of an absent device they are any bytes. -/
theorem exists_phase1_answers (a : Word) (d : Bytes 32) (s : State) :
    ∃ (m rx : List Byte) (c0 c1 : Byte), m.length = 9 ∧ rx.length = 35 ∧ ((busReset s).1 = true →
      (phase1 a d s).2.trace = s.trace ++ selectEvents s m ++ [.xch (scratchFrame a d) (rx ++ [c0, c1])] ∧
      (phase1 a d s).2.acc = crc16Fold (scratchAcc a d) [c0, c1] ∧
      (phase1 a d s).1 = if (phase1 a d s).2.acc = 0xB001 then .ok else .integrityMismatch) := by
  cases hp : (busReset s).1 with
  | false => exact ⟨List.replicate 9 0, List.replicate 35 0, 0, 0, by simp, by simp, nofun⟩
  | true =>
    obtain ⟨m, rx, c0, c1, hm, hrx, htrace, hacc, -, hcode⟩ := phase1_spec s a d hp
    exact ⟨m, rx, c0, c1, hm, hrx, fun _ => ⟨htrace, hacc, hcode⟩⟩

/-- The bytes received in Phase 2 before the confirmation byte: of an absent device they are any bytes. -/
theorem exists_phase2_answers (a : Word) (s : State) :
    ∃ m r3 r1 : List Byte, m.length = 9 ∧ r3.length = 3 ∧ r1.length = 1 ∧ ((busReset s).1 = true →
      (phase2 a s).2.trace = s.trace ++ selectEvents s m ++ copyEvents a r3 r1 (phase2 a s).2.conf ∧
      (phase2 a s).2.busPower = .standard ∧
      (phase2 a s).1 =
        if (phase2 a s).2.conf = 0x55 ∨ (phase2 a s).2.conf = 0xAA then .ok else .commitAmbiguous) := by
  cases hp : (busReset s).1 with
  | false => exact ⟨List.replicate 9 0, List.replicate 3 0, List.replicate 1 0, by simp, by simp, by simp, nofun⟩
  | true =>
    obtain ⟨m, r3, r1, hm, h3, h1, htrace, hpower, -, hcode⟩ := phase2_spec s a hp
    exact ⟨m, r3, r1, hm, h3, h1, fun _ => ⟨htrace, hpower, hcode⟩⟩

/-! ### The end of an operation on a phase's code -/

/-- `t` ends a write from `s`: `RVALID` and the result follow from `STATUS` (R112, R120, R122, R124). -/
def State.writeEnds (s t : State) : Prop :=
  if t.status = .ok then t.rvalid = s.rvalid ∧ t.result = .success else t.rvalid = false ∧ t.result = .failure t.status

theorem finishPhase_writeEnds (r : Status × State) : r.2.writeEnds (finishPhase r) := by
  rw [State.writeEnds, finishPhase_status, finishPhase_rvalid, finishPhase_result]
  split <;> exact ⟨rfl, rfl⟩

theorem State.writeEnds.congr (h : s.writeEnds t) (hs : s.rvalid = u.rvalid) : u.writeEnds t := by
  rwa [State.writeEnds, ← hs]

theorem State.writeEnds.of_ok (h : s.writeEnds t) (hc : t.status = .ok) : t.rvalid = s.rvalid ∧ t.result = .success := by
  rwa [State.writeEnds, if_pos hc] at h

theorem State.writeEnds.of_failure {c : Status} (h : s.writeEnds t) (hc : t.status = c) (hne : c ≠ .ok) :
    t.status = c ∧ t.rvalid = false ∧ t.result = .failure c := by
  subst hc
  exact ⟨rfl, by rwa [State.writeEnds, if_neg hne] at h⟩

/-! ### `WRITE_SCRATCHPAD` (R120, R121) -/

/-- Settles O24: with a device, the code of Phase 1 is its accumulator's compare, and the residue law says which two bytes
pass. -/
theorem writeScratchpadResult : Obligations.WriteScratchpadResult := by
  unfold Obligations.WriteScratchpadResult
  intro s
  have hend : s.writeEnds (finishPhase (phase1 s.argAddr s.wdata s)) :=
    (finishPhase_writeEnds _).congr (phase1_rvalid s s.argAddr s.wdata)
  obtain ⟨m, rx, c0, c1, hm, hrx, hpresent⟩ := exists_phase1_answers s.argAddr s.wdata s
  refine exec_spec_of_instrEnd (by decide) ⟨(busReset s).1, m, rx, c0, c1, hm, hrx, rfl, by simp [instrEnd],
    finishPhase_busy _, finishPhase_seq _, execEnd_sameInputs .writeScratchpad s, by simp [instrEnd], by simp [instrEnd],
    by simp [instrEnd], by simp [instrEnd], fun hp => ?_, fun hp => ?_⟩
  · obtain ⟨hcode, htrace, hacc⟩ := phase1_absent_spec s.argAddr s.wdata hp
    exact ⟨(finishPhase_trace _).trans htrace, (finishPhase_acc _).trans hacc,
      hend.of_failure ((finishPhase_status _).trans hcode) nofun⟩
  · obtain ⟨htrace, hacc, hcode⟩ := hpresent hp
    simp only [instrEnd, finishPhase_trace, finishPhase_acc]
    refine ⟨htrace, hacc, ?_, ?_, ?_⟩
    · rw [finishPhase_status, hcode]
      split
      next h => exact iff_of_true rfl h
      next h => exact iff_of_false nofun h
    · rw [hacc]
      exact crc16Fold_pair_eq_residue_iff _ c0 c1
    · split
      next h => exact hend.of_ok (by rw [finishPhase_status, hcode, if_pos h])
      next h => exact hend.of_failure (by rw [finishPhase_status, hcode, if_neg h]) nofun

/-! ### `COPY_SCRATCHPAD` (R122, R123, R128) -/

/-- Settles O25: with a device, the code of Phase 2 is the compare of the byte that `CONF` holds. -/
theorem copyScratchpadResult : Obligations.CopyScratchpadResult := by
  unfold Obligations.CopyScratchpadResult
  intro s
  have hend : s.writeEnds (finishPhase (phase2 s.argAddr s)) :=
    (finishPhase_writeEnds _).congr (phase2_rvalid s s.argAddr)
  obtain ⟨m, r3, r1, hm, h3, h1, hpresent⟩ := exists_phase2_answers s.argAddr s
  refine exec_spec_of_instrEnd (by decide) ⟨(busReset s).1, m, r3, r1, (phase2 s.argAddr s).2.conf, hm, h3, h1, rfl,
    by simp [instrEnd], finishPhase_busy _, finishPhase_seq _, execEnd_sameInputs .copyScratchpad s, by simp [instrEnd],
    by simp [instrEnd], by simp [instrEnd], fun hp => ?_, fun hp => ?_⟩
  · obtain ⟨hcode, htrace, hconf, hpower⟩ := phase2_absent_spec s.argAddr hp
    obtain ⟨hstatus, hrvalid, hresult⟩ := hend.of_failure ((finishPhase_status _).trans hcode) nofun
    exact ⟨(finishPhase_trace _).trans htrace, hstatus, (finishPhase_conf _).trans hconf, hrvalid,
      (finishPhase_busPower _).trans hpower, hresult⟩
  · obtain ⟨htrace, hpower, hcode⟩ := hpresent hp
    refine ⟨(finishPhase_trace _).trans htrace, finishPhase_conf _, (finishPhase_busPower _).trans hpower, ?_⟩
    split
    next h =>
      have hok : (finishPhase (phase2 s.argAddr s)).status = .ok := by rw [finishPhase_status, hcode, if_pos h]
      exact ⟨hok, hend.of_ok hok⟩
    next h => exact hend.of_failure (by rw [finishPhase_status, hcode, if_neg h]) nofun

/-- Settles O26: the seventh event after the reset is the read of the byte. -/
theorem copySucceedsIffToggleByte : Obligations.CopySucceedsIffToggleByte := by
  unfold Obligations.CopySucceedsIffToggleByte
  intro s t h hp
  obtain ⟨p, m, r3, r1, c, -, -, -, -, hpres, -, -, -, -, -, -, -, hpresent⟩ := (copyScratchpadResult s).2 t h
  obtain ⟨htrace, -, -, hstatus⟩ := hpresent (hpres.symm.trans hp)
  refine ⟨s.trace ++ selectEvents s m ++ (copyEvents s.argAddr r3 r1 c).dropLast, c, ?_, ?_⟩
  · rw [htrace]
    simp [copyEvents]
  · split at hstatus
    next hc => exact iff_of_true hstatus.1 hc
    next hc => exact iff_of_false (hstatus.1 ▸ nofun) hc

/-! ### The five paths of `WRITE_PAGE` (R124, R125, R127) -/

/-- `WRITE_PAGE` without a device at first: `Aborted` (R125). -/
theorem writePage_absent_spec (h : (busReset s).1 = false) :
    (writePage s).trace = s.trace ++ [.rst false] ∧ (writePage s).status = .deviceAbsent ∧
      (writePage s).wstate = .aborted ∧ (writePage s).acc = s.acc ∧ (writePage s).conf = s.conf ∧
      (writePage s).present = false ∧ (writePage s).busPower = s.busPower := by
  rw [writePage_of_absent h]
  simp [probe_trace, probe_fst, h]

/-- After a good Phase 1, without a device at second: `Unknown` (R125; 90_conflicts.md C4). -/
theorem commitStaged_absent_spec (a : Word) (h : (busReset s).1 = false) :
    (commitStaged a s).trace = s.trace ++ [.rst false] ∧ (commitStaged a s).acc = s.acc ∧
      (commitStaged a s).status = .deviceAbsent ∧ (commitStaged a s).wstate = .unknown ∧
      (commitStaged a s).conf = s.conf ∧ (commitStaged a s).present = false ∧
      (commitStaged a s).busPower = s.busPower := by
  have h' : (busReset (setWState .scratchpadStaged s)).1 = false := (busReset_setWState_fst s _).trans h
  obtain ⟨hcode, htrace, hconf, hpower⟩ := phase2_absent_spec a h'
  simp [commitStaged, hcode, htrace, hconf, hpower, h]

/-- After a good Phase 1, with a device: the confirmation byte decides between `Committed` and `Unknown` (R125, R128). -/
theorem commitStaged_present_spec (a : Word) (h : (busReset s).1 = true) :
    ∃ m r3 r1 : List Byte, m.length = 9 ∧ r3.length = 3 ∧ r1.length = 1 ∧
      (commitStaged a s).trace = s.trace ++ selectEvents s m ++ copyEvents a r3 r1 (commitStaged a s).conf ∧
      (commitStaged a s).acc = s.acc ∧ (commitStaged a s).present = true ∧ (commitStaged a s).busPower = .standard ∧
      if (commitStaged a s).conf = 0x55 ∨ (commitStaged a s).conf = 0xAA then
        (commitStaged a s).status = .ok ∧ (commitStaged a s).wstate = .committed
      else (commitStaged a s).status = .commitAmbiguous ∧ (commitStaged a s).wstate = .unknown := by
  have h' : (busReset (setWState .scratchpadStaged s)).1 = true := (busReset_setWState_fst s _).trans h
  obtain ⟨m, r3, r1, hm, h3, h1, htrace, hpower, -, hcode⟩ := phase2_spec _ a h'
  have hconf : (commitStaged a s).conf = (phase2 a (setWState .scratchpadStaged s)).2.conf := by simp [commitStaged]
  rw [hconf]
  refine ⟨m, r3, r1, hm, h3, h1, (finishPhase_trace _).trans htrace, commitStaged_acc s a, ?_, ?_, ?_⟩
  · simp [commitStaged, h]
  · simpa [commitStaged] using hpower
  · simp only [commitStaged, finishPhase_status, finishPhase_wstate, setWState_wstate, hcode]
    split
    next => exact ⟨rfl, rfl⟩
    next => exact ⟨rfl, rfl⟩

/-- Phase 1 of a `WRITE_PAGE`: its code and the state after it (R124). -/
def writePagePhase1 (s : State) : Status × State := phase1 (pageAddr s.argPidx) s.wdata (setWState .idle s)

theorem writePage_of_ok (h : (writePagePhase1 s).1 = .ok) :
    writePage s = commitStaged (pageAddr s.argPidx) (writePagePhase1 s).2 := writePage_of_phase1_ok s h

theorem writePage_of_failure (h : (writePagePhase1 s).1 ≠ .ok) :
    writePage s = finishPhase ((writePagePhase1 s).1, setWState .aborted (writePagePhase1 s).2) := by
  rw [finishPhase_of_ne _ h]
  exact writePage_of_phase1_fail s h

/-- Phase 1 of a `WRITE_PAGE` with a device present: its two frames, what it folds, and its code (R120, R121). -/
theorem writePagePhase1_spec (h : (busReset s).1 = true) :
    ∃ (m rx : List Byte) (c0 c1 : Byte), m.length = 9 ∧ rx.length = 35 ∧
      (writePagePhase1 s).2.trace = s.trace ++ (selectEvents s m ++
        [.xch (scratchFrame (pageAddr s.argPidx) s.wdata) (rx ++ [c0, c1])]) ∧
      (writePagePhase1 s).2.acc = crc16Fold (scratchAcc (pageAddr s.argPidx) s.wdata) [c0, c1] ∧
      (writePagePhase1 s).1 = if (writePagePhase1 s).2.acc = 0xB001 then .ok else .integrityMismatch := by
  obtain ⟨m, rx, c0, c1, hm, hrx, htrace, hacc, -, hcode⟩ :=
    phase1_spec _ (pageAddr s.argPidx) s.wdata ((busReset_setWState_fst s .idle).trans h)
  exact ⟨m, rx, c0, c1, hm, hrx, htrace.trans (List.append_assoc ..), hacc, hcode⟩

@[simp] theorem writePagePhase1_conf (s : State) : (writePagePhase1 s).2.conf = s.conf := by simp [writePagePhase1]
@[simp] theorem writePagePhase1_busPower (s : State) : (writePagePhase1 s).2.busPower = s.busPower := by
  simp [writePagePhase1]
@[simp] theorem writePagePhase1_rvalid (s : State) : (writePagePhase1 s).2.rvalid = s.rvalid := by simp [writePagePhase1]
@[simp] theorem writePagePhase1_present (s : State) : (writePagePhase1 s).2.present = (busReset s).1 := by
  simp [writePagePhase1]
@[simp] theorem selectEvents_writePagePhase1 (s : State) (m : List Byte) :
    selectEvents (writePagePhase1 s).2 m = selectEvents s m := by simp [selectEvents, writePagePhase1]

theorem writePage_writeEnds (s : State) : s.writeEnds (writePage s) := by
  by_cases hk : (writePagePhase1 s).1 = .ok
  · rw [writePage_of_ok hk]
    exact (finishPhase_writeEnds _).congr (by simp)
  · rw [writePage_of_failure hk]
    exact (finishPhase_writeEnds _).congr (by simp)

/-- Settles O27: the first presence answer, the accumulator after Phase 1 and the second presence answer split the paths. -/
theorem writePageResult : Obligations.WritePageResult := by
  unfold Obligations.WritePageResult
  intro s
  refine exec_spec_of_instrEnd (by decide) ⟨writePage_busy s, writePage_seq s, execEnd_sameInputs .writePage s,
    writePage_rdata s, writePage_writeEnds s, ?_⟩
  cases hp : (busReset s).1 with
  | false => exact .inl ⟨rfl, writePage_absent_spec hp⟩
  | true =>
    obtain ⟨m, rx, c0, c1, hm, hrx, htrace, hacc, hcode⟩ := writePagePhase1_spec hp
    refine .inr ⟨rfl, m, rx, c0, c1, hm, hrx, ?_⟩
    by_cases hres : (writePagePhase1 s).2.acc = 0xB001
    · rw [instrEnd, writePage_of_ok (hcode.trans (if_pos hres))]
      refine ⟨(commitStaged_acc ..).trans hacc, .inr ?_⟩
      cases hp2 : (busReset (writePagePhase1 s).2).1 with
      | false =>
        obtain ⟨htrace2, hacc2, hstatus, hwstate, hconf, hpresent, hpower⟩ :=
          commitStaged_absent_spec (pageAddr s.argPidx) hp2
        exact .inl ⟨hp2, by rw [htrace2, htrace], hacc2.trans hres, hstatus, hwstate,
          hconf.trans (writePagePhase1_conf s), hpresent, hpower.trans (writePagePhase1_busPower s)⟩
      | true =>
        obtain ⟨m2, r3, r1, hm2, h3, h1, htrace2, hacc2, hpresent, hpower, hconfirm⟩ :=
          commitStaged_present_spec (pageAddr s.argPidx) hp2
        exact .inr ⟨hp2, m2, r3, r1, hm2, h3, h1, by rw [htrace2, htrace, selectEvents_writePagePhase1],
          hacc2.trans hres, hpresent, hpower, hconfirm⟩
    · have hbad : (writePagePhase1 s).1 = .integrityMismatch := hcode.trans (if_neg hres)
      rw [instrEnd, writePage_of_failure (hbad ▸ nofun), hbad]
      exact ⟨hacc, .inl ⟨htrace, hres, rfl, rfl, writePagePhase1_conf s, (writePagePhase1_present s).trans hp,
        writePagePhase1_busPower s⟩⟩

/-- Settles O29: of the five paths, the two that end in `Aborted` make no event of Phase 2. -/
theorem abortedWriteNeverStartsPhase2 : Obligations.AbortedWriteNeverStartsPhase2 := by
  unfold Obligations.AbortedWriteNeverStartsPhase2
  intro s t h
  refine ⟨fun hk => ?_, fun hw => ?_⟩
  · rw [eq_execEnd_of_next h]
    exact congrArg State.wstate (writePage_of_phase1_fail s hk)
  · obtain ⟨-, -, -, -, -, ⟨-, habsent, -⟩ | ⟨-, m, rx, c0, c1, hm, hrx, hacc, hpaths⟩⟩ := (writePageResult s).2 t h
    · exact .inl habsent
    · rcases hpaths with ⟨htrace, hres, -⟩ | ⟨-, -, -, -, hunknown, -⟩ | ⟨-, -, -, -, -, -, -, -, -, -, -, hend⟩
      · refine .inr ⟨m, rx ++ [c0, c1], hm, by simp [hrx], htrace, ?_⟩
        rwa [List.drop_left' hrx, ← hacc]
      · exact nomatch hunknown.symm.trans hw
      · split at hend
        · exact nomatch hend.2.symm.trans hw
        · exact nomatch hend.2.symm.trans hw

/-! ### `WRITE_PAGE` is the one phase after the other (R87, R124, R131) -/

/-- The transport returns from every call between the histories of `s` and `t`, and a reference environment is inside its
definition in `t`: what it takes that work from `s` to `t` completes (R65 to R67, R166). -/
def State.reaches (s t : State) : Prop :=
  (∀ n, s.hangAt = some n → n < s.trace.length ∨ t.trace.length ≤ n) ∧ t.envOutside = false

theorem exec_eq_next_iff {i : Instr} (hc : i ∉ crcOps) : exec i s = .next t ↔ t = instrEnd i s ∧ s.reaches t := by
  rw [exec_eq_deliver hc]
  refine ⟨fun h => ?_, fun ⟨ht, hn, ho⟩ => ?_⟩
  · obtain ⟨rfl, hhung, -⟩ := deliver_next h
    have henv : s.env = none → (instrEnd i s).env = none := execEnd_of_not_mem_crcOps hc s ▸ execEnd_env_none i
    refine ⟨rfl, fun n hn => ?_, (deliver_inside h henv).2⟩
    by_contra hcall
    obtain ⟨p, hp, -⟩ := hungCall_of_callsFrom (instrCalls_spec i s) hn (by omega) (by omega)
    exact nomatch hhung.symm.trans hp
  · subst ht
    exact deliver_of_inside (hungCall_none_of_callsFrom (instrCalls_spec i s) hn) ho

/-- Whether work completes follows from its outcome. -/
theorem State.reaches.of_sameOutcome (h : s.reaches t) (hsame : t.sameOutcome u) : s.reaches u := by
  obtain ⟨htrace, -, henv, -⟩ := hsame
  rwa [State.reaches, State.envOutside, htrace, henv]

/-- The environment does not come back into its definition in an instruction. -/
theorem envOutside_of_instrEnd {i : Instr} (hc : i ∉ crcOps) (h : (instrEnd i s).envOutside = false) :
    s.envOutside = false := by
  obtain ⟨p, calls, hcalls, hp⟩ := instrCalls_head hc s
  exact hp.symm.trans (instrCalls_inside h p (hcalls ▸ List.mem_cons_self))

/-- Two instructions in sequence complete where the way to the end of the second is free (R57, R166). -/
theorem exec_exec_of_reaches {i j : Instr} (hi : i ∉ crcOps) (hj : j ∉ crcOps)
    (h : s.reaches (instrEnd j (instrEnd i s))) :
    exec i s = .next (instrEnd i s) ∧ exec j (instrEnd i s) = .next (instrEnd j (instrEnd i s)) := by
  obtain ⟨hn, ho⟩ := h
  have hhang : (instrEnd i s).hangAt = s.hangAt := execEnd_of_not_mem_crcOps hi s ▸ execEnd_hangAt i s
  have hfirst := (instrCalls_spec i s).length
  have hsecond := (instrCalls_spec j (instrEnd i s)).length
  rw [exec_eq_next_iff hi, exec_eq_next_iff hj]
  refine ⟨⟨rfl, fun n h => ?_, envOutside_of_instrEnd hj ho⟩, ⟨rfl, fun n h => ?_, ho⟩⟩
  · have := hn n h
    omega
  · have := hn n (hhang ▸ h)
    omega

/-! ### The same outcome -/

/-- The state in which `WRITE_SCRATCHPAD` and `COPY_SCRATCHPAD` work at the page's address (R87). -/
def State.atPage (s : State) : State := { s with argAddr := pageAddr s.argPidx }

/-- Two states that agree on the bus, after a phase with the same code and accumulator: one outcome. -/
theorem finishPhase_sameOutcome {c : Status} (h : s.Agree t) (ha : t.acc = s.acc) :
    (finishPhase (c, s)).sameOutcome (finishPhase (c, t)) := by
  simp only [State.sameOutcome, finishPhase_trace, finishPhase_oracle, finishPhase_env, finishPhase_busPower,
    finishPhase_status, finishPhase_result, finishPhase_acc, finishPhase_conf, finishPhase_present, finishPhase_rdata,
    finishPhase_rvalid, finishPhase_tb, finishPhase_tbLen, h.trace, h.oracle, h.env, h.busPower, ha, h.conf, h.present,
    h.rdata, h.rvalid, h.tb, h.tbLen, and_self]

/-- Phase 1 of a `WRITE_PAGE` and of a `WRITE_SCRATCHPAD` at the page's address: the same code, bus and accumulator. -/
theorem writePagePhase1_agree (s : State) :
    (phase1 (pageAddr s.argPidx) s.wdata s.atPage).1 = (writePagePhase1 s).1 ∧
      (writePagePhase1 s).2.Agree (phase1 (pageAddr s.argPidx) s.wdata s.atPage).2 ∧
      (phase1 (pageAddr s.argPidx) s.wdata s.atPage).2.acc = (writePagePhase1 s).2.acc := by
  have hstart : (setWState .idle s).Agree s.atPage := ⟨rfl, rfl, rfl, rfl, rfl, rfl, rfl, rfl, rfl, rfl, rfl⟩
  obtain ⟨hcode, hagree, hacc⟩ := hstart.phase1 (pageAddr s.argPidx) s.wdata
  exact ⟨hcode, hagree, hacc (.inr rfl)⟩

theorem agree_setWState (w : WState) (s : State) : s.Agree (setWState w s) := by constructor <;> rfl
theorem agree_done (r : HostResult) (s : State) : s.Agree (done r s) := by constructor <;> rfl

/-- A `WRITE_PAGE` whose Phase 1 fails has the outcome of `WRITE_SCRATCHPAD` at the page's address. -/
theorem writePage_sameOutcome_of_failure (h : (writePagePhase1 s).1 ≠ .ok) :
    (writePage s).sameOutcome (instrEnd .writeScratchpad s.atPage) := by
  obtain ⟨hcode, hagree, hacc⟩ := writePagePhase1_agree s
  rw [writePage_of_failure h, ← hcode]
  exact finishPhase_sameOutcome ((agree_setWState .aborted _).symm.trans hagree) hacc

/-- Where Phase 1 succeeds, the bus after `WRITE_SCRATCHPAD` at the page's address is that before Phase 2 of `WRITE_PAGE`. -/
theorem writePagePhase1_agree_writeScratchpad (h : (writePagePhase1 s).1 = .ok) :
    (writePagePhase1 s).2.Agree (instrEnd .writeScratchpad s.atPage) ∧
      (instrEnd .writeScratchpad s.atPage).acc = (writePagePhase1 s).2.acc := by
  obtain ⟨hcode, hagree, hacc⟩ := writePagePhase1_agree s
  have hend : instrEnd .writeScratchpad s.atPage = done .success (phase1 (pageAddr s.argPidx) s.wdata s.atPage).2 :=
    if_pos (hcode.trans h)
  rw [hend]
  exact ⟨hagree.trans (agree_done _ _), hacc⟩

/-- Phase 2 of a `WRITE_PAGE` has the outcome of `COPY_SCRATCHPAD` from a state that agrees on the bus. -/
theorem commitStaged_sameOutcome {a : Word} (h : s.Agree t) (hacc : t.acc = s.acc) (ha : t.argAddr = a) :
    (commitStaged a s).sameOutcome (instrEnd .copyScratchpad t) ∧
      (commitStaged a s).wstate = if (instrEnd .copyScratchpad t).status = .ok then .committed else .unknown := by
  subst ha
  obtain ⟨hcode, hagree⟩ := ((agree_setWState .scratchpadStaged s).symm.trans h).phase2 t.argAddr
  have hend : instrEnd .copyScratchpad t = finishPhase ((phase2 t.argAddr t).1, (phase2 t.argAddr t).2) := rfl
  rw [hend]
  constructor
  · rw [commitStaged, ← hcode]
    exact finishPhase_sameOutcome ((agree_setWState _ _).symm.trans hagree)
      (by rw [setWState_acc, phase2_acc, phase2_acc, setWState_acc, hacc])
  · simp only [commitStaged, finishPhase_wstate, setWState_wstate, finishPhase_status, hcode]

/-- Settles O28: `WRITE_PAGE` has the outcome of the two operations in sequence, or of the first, so they complete where it
does. -/
theorem writePageIsScratchpadThenCopy : Obligations.WritePageIsScratchpadThenCopy := by
  unfold Obligations.WritePageIsScratchpadThenCopy
  intro s t h
  obtain ⟨rfl, hreach⟩ := (exec_eq_next_iff (by decide)).mp h
  have hstatus : (instrEnd .writeScratchpad s.atPage).status = (writePagePhase1 s).1 :=
    (finishPhase_status _).trans (writePagePhase1_agree s).1
  by_cases hk : (writePagePhase1 s).1 = .ok
  · obtain ⟨hagree, hacc⟩ := writePagePhase1_agree_writeScratchpad hk
    have haddr : (instrEnd .writeScratchpad s.atPage).argAddr = pageAddr s.argPidx :=
      (finishPhase_argAddr _).trans (phase1_argAddr ..)
    obtain ⟨hsame, hwstate⟩ := commitStaged_sameOutcome hagree hacc haddr
    rw [← writePage_of_ok hk] at hsame hwstate
    have hreach' : s.atPage.reaches (instrEnd .copyScratchpad (instrEnd .writeScratchpad s.atPage)) :=
      hreach.of_sameOutcome hsame
    obtain ⟨hscratch, hcopy⟩ := exec_exec_of_reaches (by decide) (by decide) hreach'
    exact ⟨_, hscratch, fun hne => absurd (hstatus.trans hk) hne, fun _ => ⟨_, hcopy, hsame, hwstate⟩⟩
  · have hsame := writePage_sameOutcome_of_failure hk
    have hreach' : s.atPage.reaches (instrEnd .writeScratchpad s.atPage) := hreach.of_sameOutcome hsame
    have hwstate : (writePage s).wstate = .aborted := by
      rw [writePage_of_failure hk, finishPhase_wstate, setWState_wstate]
    exact ⟨_, (exec_eq_next_iff (by decide)).mpr ⟨rfl, hreach'⟩, fun _ => ⟨hsame, hwstate⟩,
      fun hok => absurd (hstatus.symm.trans hok) hk⟩

end Sys2Proof.Machine
end

section
/-! PROOFS. Failures (R135, R139, R141, R144, R151). Every bus operation that completes ends in one of two ways: with success, or
with a failure of its row of R139's table and no data; both statements on failures are read off that. -/

namespace Sys2Proof.Machine

variable {i : Instr} {s t u : State}

/-! ### The two ends of an operation -/

/-- `t` ends the bus operation `i` from `s`: with success, or with a failure that R139 allows `i`, without data (R112, R141). -/
def State.reportsTo (s t : State) (i : Instr) : Prop :=
  (t.status = .ok ∧ ∀ c, t.result ≠ .failure c) ∨
    (mayReport i t.status ∧ t.result = .failure t.status ∧ t.rvalid = false ∧ t.rdata = s.rdata)

theorem done_reportsTo {r : HostResult} (hr : ∀ c, r ≠ .failure c) : s.reportsTo (done r u) i := .inl ⟨rfl, hr⟩

theorem fail_reportsTo {c : Status} (hc : mayReport i c) (hd : u.rdata = s.rdata) : s.reportsTo (fail c u) i :=
  .inr ⟨hc, rfl, rfl, hd⟩

theorem finishRead_reportsTo {k : Nat} (hc : mayReport i .integrityMismatch) (hd : u.rdata = s.rdata) :
    s.reportsTo (finishRead k u) i := by
  by_cases h : u.acc = 0xB001
  · rw [finishRead_of_valid u k h]
    exact done_reportsTo nofun
  · rw [finishRead_of_invalid u k h]
    exact fail_reportsTo hc hd

theorem finishPhase_reportsTo {r : Status × State} (hc : r.1 = .ok ∨ mayReport i r.1) (hd : r.2.rdata = s.rdata) :
    s.reportsTo (finishPhase r) i := by
  rw [finishPhase]
  split
  next => exact done_reportsTo nofun
  next hne => exact fail_reportsTo (hc.resolve_left hne) hd

/-! ### The codes of the two phases (R120, R122) -/

theorem phase1_code (a : Word) (d : Bytes 32) (s : State) :
    (phase1 a d s).1 = .ok ∨ (phase1 a d s).1 = .deviceAbsent ∨ (phase1 a d s).1 = .integrityMismatch := by
  cases hp : (busReset s).1 with
  | false => exact .inr (.inl (phase1_absent_spec a d hp).1)
  | true =>
    obtain ⟨-, -, -, -, -, -, -, -, -, hcode⟩ := phase1_spec s a d hp
    split at hcode
    · exact .inl hcode
    · exact .inr (.inr hcode)

theorem phase2_code (a : Word) (s : State) :
    (phase2 a s).1 = .ok ∨ (phase2 a s).1 = .deviceAbsent ∨ (phase2 a s).1 = .commitAmbiguous := by
  cases hp : (busReset s).1 with
  | false => exact .inr (.inl (phase2_absent_spec a hp).1)
  | true =>
    obtain ⟨-, -, -, -, -, -, -, -, -, hcode⟩ := phase2_spec s a hp
    split at hcode
    · exact .inl hcode
    · exact .inr (.inr hcode)

/-! ### The end of every bus operation (R139, R141) -/

theorem selectEnd_reportsTo (s : State) : s.reportsTo (selectEnd s) .select := by
  cases hp : (busReset s).1 with
  | true =>
    rw [selectEnd_of_present hp]
    exact done_reportsTo nofun
  | false =>
    rw [selectEnd_of_absent hp]
    exact fail_reportsTo rfl (select_rdata s)

theorem readPageEnd_reportsTo (s : State) : s.reportsTo (readPageEnd s) .readPage := by
  cases hp : (busReset s).1 with
  | true =>
    rw [readPageEnd_of_present hp]
    exact finishRead_reportsTo (.inr rfl) (by simp)
  | false =>
    rw [readPageEnd_of_absent hp]
    exact fail_reportsTo (.inl rfl) (by simp)

/-- `WRITE_PAGE` ends on the code of Phase 1 where that is a failure, else on the code of Phase 2 (R124). -/
theorem writePage_reportsTo (s : State) : s.reportsTo (writePage s) .writePage := by
  by_cases hk : (writePagePhase1 s).1 = .ok
  · rw [writePage_of_ok hk]
    refine finishPhase_reportsTo ((phase2_code _ _).imp_right (.imp_right .inr)) ?_
    simp [writePagePhase1]
  · rw [writePage_of_failure hk]
    refine finishPhase_reportsTo ((phase1_code _ _ _).imp_right (.imp_right .inl)) ?_
    simp [writePagePhase1]

theorem instrEnd_reportsTo (hi : i ∈ hostOps) (hc : i ∉ crcOps) (s : State) : s.reportsTo (instrEnd i s) i := by
  cases i with
  | crcReset | crcAcc | crcCheck => simp [crcOps] at hc
  | wMatch _ | wRead _ | wReadc | wWsp _ _ | wCopy _ | wAuth => simp [hostOps] at hi
  | select => exact selectEnd_reportsTo s
  | readPage => exact readPageEnd_reportsTo s
  | readPageC => exact finishRead_reportsTo rfl (by simp)
  | writeScratchpad => exact finishPhase_reportsTo (phase1_code s.argAddr s.wdata s) (phase1_rdata ..)
  | copyScratchpad => exact finishPhase_reportsTo (phase2_code s.argAddr s) (phase2_rdata ..)
  | writePage => exact writePage_reportsTo s

theorem reportsTo_of_next (hi : i ∈ hostOps) (hc : i ∉ crcOps) (h : exec i s = .next t) : s.reportsTo t i := by
  rw [eq_execEnd_of_next h, execEnd_of_not_mem_crcOps hc]
  exact instrEnd_reportsTo hi hc s

/-- The CRC operations report no failure (R139). -/
theorem execEnd_result_of_crcOps (hi : i ∈ crcOps) (s : State) (c : Status) : (execEnd i s).result ≠ .failure c := by
  simp only [crcOps, List.mem_cons, List.not_mem_nil, or_false] at hi
  rcases hi with rfl | rfl | rfl <;> exact nofun

/-! ### Failures -/

/-- Settles O33: of the two ends of a bus operation, the one with a failure; the CRC operations have none. -/
theorem failuresAreThoseOfTheTable : Obligations.FailuresAreThoseOfTheTable := by
  unfold Obligations.FailuresAreThoseOfTheTable
  intro i s t c hi h hfail
  by_cases hc : i ∈ crcOps
  · rw [eq_execEnd_of_next h] at hfail
    exact absurd hfail (execEnd_result_of_crcOps hc s c)
  · obtain ⟨-, hno⟩ | ⟨hmay, hres, -, -⟩ := reportsTo_of_next hi hc h
    · exact absurd hfail (hno c)
    · obtain rfl : t.status = c := HostResult.failure.inj (hres.symm.trans hfail)
      exact ⟨hmay, rfl⟩

/-- Settles O34: the end with a failure has no data, and every end is idle with the power level `standard` if it was before. -/
theorem failureLeavesNoData : Obligations.FailureLeavesNoData := by
  unfold Obligations.FailureLeavesNoData
  intro i s t hi h hc hne
  obtain ⟨hok, -⟩ | ⟨-, hres, hrvalid, hrdata⟩ := reportsTo_of_next hi hc h
  · exact absurd hok hne
  · obtain rfl := eq_execEnd_of_next h
    obtain ⟨hbusy, hseq⟩ := execEnd_idle hi s
    exact ⟨hres, hrvalid, hrdata, hbusy, hseq, execEnd_busPower i⟩

/-! ### A command while `BUSY` is 1 (R151) -/

/-- Settles O41: `BUSY` is asked before the byte is decoded. -/
theorem busyCommandIsRefused : Obligations.BusyCommandIsRefused := by
  unfold Obligations.BusyCommandIsRefused
  intro b s hb
  rw [present, if_pos hb]

end Sys2Proof.Machine
end

section
/-! PROOFS. The transport calls of an instruction, and PIOC hanging in one of them (R57, R166, R171, U12). An instruction that
completes has made all of its calls, and one that hangs stands at one of them. What the calls have in common (Laws/Calls.lean)
bounds the events and says what a stuck state has kept. -/

namespace Sys2Proof.Machine

variable {i : Instr} {s t p q : State}

/-! ### Instructions that complete -/

/-- Calls bring the history from its beginning to its end with one event each (R57). -/
theorem CallsFrom.exists_events {tr tr' : List Event} {calls : List State} (h : CallsFrom s tr calls tr') :
    ∃ ev : List Event, tr' = tr ++ ev ∧ ev.length = calls.length := by
  induction calls generalizing tr with
  | nil => exact ⟨[], Eq.trans h (List.append_nil tr).symm, rfl⟩
  | cons q l ih =>
    obtain ⟨-, -, e, h⟩ := h
    obtain ⟨ev, rfl, hlen⟩ := ih h
    exact ⟨e :: ev, List.append_assoc tr [e] ev, congrArg (· + 1) hlen⟩

/-- Settles O17: an instruction that completes has made one event for each of its calls. -/
theorem atMostElevenTransportCalls : Obligations.AtMostElevenTransportCalls := by
  unfold Obligations.AtMostElevenTransportCalls
  intro i s t h
  rw [eq_execEnd_of_next h]
  by_cases hc : i ∈ crcOps
  · obtain ⟨-, -, -, -, htrace⟩ := execEnd_of_crcOps hc s
    exact ⟨[], by rw [htrace, List.append_nil], Nat.zero_le 11, fun _ => rfl⟩
  · obtain ⟨ev, hev, hlen⟩ := (instrCalls_spec i s).exists_events
    exact ⟨ev, by rw [execEnd_of_not_mem_crcOps hc, hev], hlen ▸ instrCalls_length i s, fun h => absurd h hc⟩

/-- Settles O35: an operation's end is idle, and every operation brings the power level back to `standard`. -/
theorem everyOperationEnds : Obligations.EveryOperationEnds := by
  unfold Obligations.EveryOperationEnds
  intro i s t hi hp h
  rw [eq_execEnd_of_next h]
  obtain ⟨hbusy, hseq⟩ := execEnd_idle hi s
  exact ⟨hbusy, hseq, execEnd_busPower i hp⟩

/-! ### Instructions that hang -/

/-- A hanging instruction hangs in one of its own calls, the one with the number `hangAt` (R166). -/
theorem mem_instrCalls_of_hung (h : exec i s = .fault (.transportHung p)) :
    p ∈ instrCalls i s ∧ s.hangAt = some p.trace.length := by
  by_cases hc : i ∈ crcOps
  · rw [exec_of_mem_crcOps hc] at h
    cases h
  · rw [exec_eq_deliver hc] at h
    obtain ⟨_, hq, hhung⟩ := deliver_fault h
    cases hq
    exact hungCall_some hhung

/-- A hanging instruction has kept what it keeps at each of its calls. It waits in one of at most 11, so at most 10 are done
before (R166). -/
theorem waitsIn_of_hung (h : exec i s = .fault (.transportHung p)) :
    s.waitsIn p ∧ ∃ ev : List Event, p.trace = s.trace ++ ev ∧ ev.length ≤ 10 := by
  obtain ⟨hp, -⟩ := mem_instrCalls_of_hung h
  have hcalls := instrCalls_spec i s
  obtain ⟨hwait, ⟨ev, hev⟩, -, hlt⟩ := hcalls.of_mem hp
  have hcount := instrCalls_length i s
  rw [hcalls.length, ← hev, List.length_append] at hlt
  exact ⟨hwait, ev, hev.symm, by omega⟩

/-! ### Steps that hang -/

/-- A step of `s` that hangs: at the call with the number `hangAt`, with `BUSY` set and `SEQ` not idle (R166, U12). -/
def State.stuckAt (s p : State) : Prop := s.hangAt = some p.trace.length ∧ p.busy = true ∧ p.seq ≠ .idle

theorem stuckAt_of_hung (hb : s.busy = true) (h : exec i s = .fault (.transportHung p)) : s.stuckAt p := by
  obtain ⟨-, hhang⟩ := mem_instrCalls_of_hung h
  obtain ⟨hwait, -⟩ := waitsIn_of_hung h
  exact ⟨hhang, hwait.busy.trans hb, hwait.seq⟩

/-- Work that makes one call hangs in that call. -/
theorem stuckAt_of_deliver (hb : q.busy = true) (hq : q.seq ≠ .idle) (h : deliver s [q] t = .fault (.transportHung p)) :
    s.stuckAt p := by
  obtain ⟨_, hr, hhung⟩ := deliver_fault h
  cases hr
  obtain ⟨hp, hhang⟩ := hungCall_some hhung
  obtain rfl := List.mem_singleton.mp hp
  exact ⟨hhang, hb, hq⟩

/-- The first micro-step of an operation makes no transport call (R11, R24). -/
theorem beginOp_ne_fault (s : State) (r : Fault) : beginOp s ≠ .fault r := by
  unfold beginOp
  split <;> nofun

/-- A control position where no frame begins makes at most one call, and hangs in that one. -/
theorem stuckAt_of_sequencerStep (hb : s.busy = true) (h : sequencerStep s = .fault (.transportHung p)) : s.stuckAt p := by
  unfold sequencerStep at h
  cases hs : s.seq <;> simp only [hs] at h
  case idle => exact absurd h (beginOp_ne_fault s _)
  case selReset => exact stuckAt_of_deliver (q := setSeq .selReset s) hb nofun h
  case rdXchg | wsXchg | cpPwrOn | cpWait | cpPwrOff | cpConf => exact stuckAt_of_deliver hb (hs ▸ nofun) h
  case selMatch | rdHdr | rdFold | rdCheck | wsBuild | wsFold | wsCheck | cpCmd | cpAuth | cpCheck => cases h

/-- What follows a frame makes no transport call: a fault is the frame's own (R24). -/
theorem eq_fault_of_andLeaveFrame {o : Host.Outcome State Fault Refusal} {r : Fault} (h : andLeaveFrame o = .fault r) :
    o = .fault r := by
  cases o with
  | fault _ => exact h
  | next _ | refused _ => cases h

/-- A step of a busy PIOC is a frame, or the work at a control position without one (R24). -/
theorem stuckAt_of_busyStep (hb : s.busy = true) (h : busyStep s = .fault (.transportHung p)) : s.stuckAt p := by
  cases hf : frameAt s with
  | none =>
    rw [busyStep_of_no_frame hf] at h
    exact stuckAt_of_sequencerStep hb h
  | some i =>
    rw [busyStep_of_frame hf] at h
    exact stuckAt_of_hung hb (eq_fault_of_andLeaveFrame h)

/-- A command byte that ends in a fault was accepted, and its operation hangs (R71). -/
theorem exec_of_present_fault {b : Byte} {r : Fault} (h : present b s = .fault r) :
    ∃ i, exec i (accept b s) = .fault r := by
  unfold present at h
  split at h
  · cases h
  · split at h
    · cases h
    · exact ⟨_, h⟩

/-- A step of an idle PIOC hangs only in the operation that the host commands (R172). -/
theorem stuckAt_of_idleStep (hb : s.busy = false) (h : step s = .fault (.transportHung p)) : s.stuckAt p := by
  cases hm : s.inbox with
  | nil =>
    rw [step_of_no_move hb hm] at h
    cases h
  | cons m rest =>
    by_cases hc : ∃ b, m = .command b
    · obtain ⟨b, rfl⟩ := hc
      rw [step_of_command hb hm] at h
      obtain ⟨i, h⟩ := exec_of_present_fault h
      exact stuckAt_of_hung (s := accept b { s with inbox := rest }) rfl h
    · rw [step_of_move hb hm (not_exists.mp hc)] at h
      cases h

/-- Settles O57: a hanging instruction waits in one of its calls, and a hanging step does so with `BUSY` set. -/
theorem hungOperationStaysBusyAtTheCall : Obligations.HungOperationStaysBusyAtTheCall := by
  unfold Obligations.HungOperationStaysBusyAtTheCall
  refine ⟨fun i s p h => ?_, fun s p h => ?_⟩
  · obtain ⟨-, hhang⟩ := mem_instrCalls_of_hung h
    obtain ⟨⟨hbusy, hseq, hin, hstatus, hresult⟩, hev⟩ := waitsIn_of_hung h
    exact ⟨hhang, hbusy, hseq, hin, hstatus, hresult, hev⟩
  · cases hb : s.busy with
    | false => exact stuckAt_of_idleStep hb h
    | true => exact stuckAt_of_busyStep hb (step_of_busy hb ▸ h)

/-! ### The next call hangs -/

/-- Where the next call on the bus never returns, an instruction that makes calls hangs in its first (R166, U12). -/
theorem exec_hangs_in_first_call (hc : i ∉ crcOps) (hh : s.hangAt = some s.trace.length) (ho : s.envOutside = false) :
    ∃ p, exec i s = .fault (.transportHung p) ∧ p.trace = s.trace ∧ s.waitsIn p := by
  obtain ⟨p, calls, hp, hpo⟩ := instrCalls_head hc s
  obtain ⟨htrace, hwait, -⟩ := hp ▸ instrCalls_spec i s
  have hhung : hungCall s (instrCalls i s) = some p := by rw [hp, hungCall_cons, htrace, if_pos hh]
  refine ⟨p, ?_, htrace, hwait⟩
  rw [exec_eq_deliver hc, deliver_hung hhung, unlessRefused_of_inside (hpo.trans ho)]

/-- Settles O18: a CRC operation makes no call, and every other instruction has a first one. -/
theorem hungTransportStopsAllButTheCrcEngine : Obligations.HungTransportStopsAllButTheCrcEngine := by
  unfold Obligations.HungTransportStopsAllButTheCrcEngine
  intro i s hh ho
  split_ifs with hc
  · exact ⟨_, exec_of_mem_crcOps hc s⟩
  · obtain ⟨p, hp, htrace, hwait⟩ := exec_hangs_in_first_call hc hh ho
    exact ⟨p, hp, htrace, hwait.busy, hwait.seq⟩

end Sys2Proof.Machine
end
